-- ==== Sys2Proof/Word.lean ====
section
/-! DEFINITION. The words, small names and the frame record the block is made of (R11, R18, R31, R302, R303).
Every value is an unsigned bit vector of the width its rule states (R11); names that no operation computes with are
inductive types. -/

namespace Sys2Proof

/-- One byte of a datagram (R60, `NETBUF` and `WIRE`). -/
abbrev Byte := BitVec 8

/-- One element of a sample buffer: a 16-bit word (R28, R60). -/
abbrev Sample := BitVec 16

/-- One transaction word (R90). -/
abbrev TxnWord := BitVec 32

/-- An opaque PCB handle returned by `udp_new` (R34). No operation computes with it; a `Nat` names it (log 12). -/
abbrev Handle := Nat

/-- ADC `a ∈ {0,1}` (R18). -/
inductive Adc where
  | adc0
  | adc1
  deriving DecidableEq, Repr, Inhabited

/-- Half `h ∈ {0,1}` of an ADC's circular buffer: half-done is `first`, full-done is `second` (R18). -/
inductive Half where
  | first
  | second
  deriving DecidableEq, Repr, Inhabited

/-- Drop kinds (R303). -/
inductive DropKind where
  | resignal
  | queueFull
  | invalidFrame
  | allocFail
  | sendFail
  deriving DecidableEq, Repr, Inhabited

/-- Fatal causes, the values of `fatal_cause` (R23, R302). Codes 7 to 15 are never written and have no name here (U13). -/
inductive FatalCause where
  | none
  | initBadArgs
  | startAdc0Dma
  | startAdc1Dma
  | startTimer
  | pcbNewFail
  | pcbConnectFail
  deriving DecidableEq, Repr, Inhabited

/-- Reasons of a REJECT (R304). -/
inductive RejectReason where
  | reservedOp
  | nonzeroReservedBits
  | indexRange
  | state
  | reservedReg
  deriving DecidableEq, Repr, Inhabited

/-- A frame record (R31). It has no byte image; only its serialisation on the wire is encoded (R100, R101). -/
structure Frame where
  /-- `samples[j]` for `j ∈ 0..S·C`. -/
  samples : List Sample
  /-- `sample_count`, 32 bits (D22). -/
  sampleCount : BitVec 32
  /-- `first_sample_idx`, the time-step index of `samples[0..C]`. -/
  firstSampleIdx : BitVec 64
  /-- `flags`; bit 0 is the drop latch when the frame was produced. -/
  flags : BitVec 16
  deriving DecidableEq, Repr, Inhabited

end Sys2Proof
end

