-- ==== Sys2Proof/Config.lean ====
section
/-! DEFINITION. What one instance of the block fixes for its whole life (R6–R8), the reference build (R7, R10), and the free
values: what the spec lets be anything (R17, R28, R30, R36; U1, U2, U4). A free value is an opaque constant: nothing in Lean
can evaluate it, so a theorem holds whatever it is. -/

namespace Sys2Proof

/-- `SAMPLE_BITS`: 8 or 16 (R7). -/
inductive SampleBits where
  | bits8
  | bits16
  deriving DecidableEq, Repr

/-- `QUEUE_FULL_RULE` (R8, R194). -/
inductive QueueFullRule where
  | countQ
  | moduloReserveOne
  deriving DecidableEq, Repr

/-- `INDEX_ON_QUEUE_FULL` (R8, R160). -/
inductive IndexOnQueueFull where
  | advance
  | hold
  deriving DecidableEq, Repr

/-- `WIRE_INDEX_SOURCE` (R8, R226). -/
inductive WireIndexSource where
  | frame
  | stream
  deriving DecidableEq, Repr

/-- `SEQ_ADVANCE` (R8, R227). -/
inductive SeqAdvance where
  | onForm
  | onSuccess
  deriving DecidableEq, Repr

/-- `DMA_ENV` (R8, R131, R132). -/
inductive DmaEnv where
  | free
  | lockstep
  deriving DecidableEq, Repr

/-- The parameters of one model instance (R6–R8). A configuration outside the ranges of R7 is refused, "no model instance
exists for it" (U17): the two range fields make such a value unrepresentable. `C` is not a field: it is exactly 2. -/
structure Config where
  /-- `S`, samples per channel per frame. -/
  S : Nat
  /-- `Q`, frame-queue depth in slots. -/
  Q : Nat
  sampleBits : SampleBits
  destIp : BitVec 32
  destPort : BitVec 16
  queueFullRule : QueueFullRule
  indexOnQueueFull : IndexOnQueueFull
  wireIndexSource : WireIndexSource
  seqAdvance : SeqAdvance
  dmaEnv : DmaEnv
  /-- `S` is 1 to 1024 (D23). -/
  sRange : 1 ≤ S ∧ S ≤ 1024 := by decide
  /-- `Q` is 1 to 65536 (D23). -/
  qRange : 1 ≤ Q ∧ Q ≤ 65536 := by decide
  deriving DecidableEq, Repr

/-- `C`, channels per time-step: exactly 2 for this block (R7). -/
def Config.channels : Nat := 2

/-- The reference build with every behaviour parameter at its default (R7, R8), and two choices of the model (DESIGN CHOICE, unsafe,
log 1): R7 gives `Q` as "4 or 512", and the instance after reset takes 4; R7 gives `SAMPLE_BITS` as "16 in scenarios 1-3, 5, 6; 8 in
scenario 4" and R9 leaves both, and the instance after reset takes 16. Statements are about every configuration, never about this
one alone. -/
def Config.reference : Config where
  S := 64
  Q := 4
  sampleBits := .bits16
  destIp := 0xC0A80A01
  destPort := 5000
  queueFullRule := .countQ
  indexOnQueueFull := .advance
  wireIndexSource := .frame
  seqAdvance := .onForm
  dmaEnv := .free

/-- FREE VALUE (U1, log 5). What element `i` of `buf[a]` holds since power-on number `epoch`, until a write reaches it. -/
opaque Config.porSample : (epoch : Nat) → Adc → (i : Nat) → Sample

/-- FREE VALUE (U2, log 6). What slot `k` holds since power-on number `epoch`, until a PUSH reaches it. -/
opaque Config.porSlot : (epoch : Nat) → (k : Nat) → Frame

/-- FREE VALUE (U2, log 6). What `wf` holds after power-on number `epoch`. -/
opaque Config.porWf : (epoch : Nat) → Frame

/-- FREE VALUE (U4, log 4). The host's answer to its `n`-th yes-or-no call, where the state's script gives none. -/
opaque Config.hostAnswer : (n : Nat) → Bool

/-- FREE VALUE (U4, log 4). The host's answer to its `n`-th `UDP_NEW`, where the state's script gives none. -/
opaque Config.hostHandle : (n : Nat) → Option Handle

/-- FREE VALUE (log 11). What sample `j` of a frame record reads as where the record has fewer than `j + 1` samples: a
record the spec does not have (R31), in states no run reaches. -/
opaque Config.missingSample : (j : Nat) → Sample

end Sys2Proof
end

