-- ==== Sys2Proof/Syntax.lean ====
section
/-! DEFINITION. The block's operations: one constructor per row of spec/opcode_table.json (R91, R99), with the operands its
rule names. There is no aliased row. -/

namespace Sys2Proof

/-- The seven transactions (R91) and the eight internal transitions (R99). -/
inductive Instr where
  /-- `INIT` (R271). -/
  | init
  /-- `START` (R272). -/
  | start
  /-- `TICK` (R220). -/
  | tick
  /-- `RSTREAM` (R232). -/
  | rstream
  /-- `EVT a, h` (R135). -/
  | evt (a : Adc) (h : Half)
  /-- `DMAWR a, idx, val` (R134); `idx` is an 11-bit field (R94). -/
  | dmawr (a : Adc) (idx : BitVec 11) (val : Sample)
  /-- `RDSTAT reg` (R273); `reg` is an 8-bit field (R95). -/
  | rdstat (reg : BitVec 8)
  /-- `SMPL(v0, v1)` (R133): its operands are the two ADC draws. -/
  | smpl (v0 v1 : Sample)
  /-- `MARK(a, h)` (R136). -/
  | mark (a : Adc) (h : Half)
  /-- `PACK(h)` (R160). -/
  | pack (h : Half)
  /-- `PUSH(f)` (R196). -/
  | push (f : Frame)
  /-- `POP`, the consumer's POP step (R221). -/
  | pop
  /-- `SEND` (R222). -/
  | send
  /-- `LRAISE(kind)` (R231). -/
  | lraise (kind : DropKind)
  /-- `FATAL(cause)` (R305). -/
  | fatal (cause : FatalCause)
  deriving DecidableEq, Repr

end Sys2Proof
end

