-- ==== Sys2Proof/WellFormed.lean ====
section
/-! DEFINITION. Which operands an operation may carry in an instance with given parameters. A field's width is checked by its
type; what stands here is what the types leave open. -/

namespace Sys2Proof

/-- A frame record as R31 describes it: `S·C` samples, `sample_count` equal to `S·C`, and bits 15:1 of `flags` zero. -/
def Frame.wellFormed (c : Config) (f : Frame) : Bool :=
  f.samples.length == c.S * Config.channels
    && f.sampleCount == BitVec.ofNat 32 (c.S * Config.channels)
    && (f.flags == 0 || f.flags == 1)

/-- A cause some rule raises (R302): neither NONE nor the reserved INIT_BAD_ARGS. -/
def FatalCause.isRaised : FatalCause → Bool
  | .none | .initBadArgs => false
  | .startAdc0Dma | .startAdc1Dma | .startTimer | .pcbNewFail | .pcbConnectFail => true

/-- The operands the spec allows: a DMAWR's `IDX` is below `2·S` (R94), a PUSH's operand is a frame record (R31, R196), and a
FATAL's cause is one that is raised (R302). -/
def Instr.wellFormed (c : Config) : Instr → Bool
  | .init => true
  | .start => true
  | .tick => true
  | .rstream => true
  | .evt _ _ => true
  | .dmawr _ idx _ => decide (idx.toNat < 2 * c.S)
  | .rdstat _ => true
  | .smpl _ _ => true
  | .mark _ _ => true
  | .pack _ => true
  | .push f => f.wellFormed c
  | .pop => true
  | .send => true
  | .lraise _ => true
  | .fatal cause => cause.isRaised

end Sys2Proof
end

