-- ==== Sys2Proof/Decode.lean ====
section
/-! DEFINITION. Decoding what an agent presents, total (R105), and the encoder (R90–R95, R99).
A transaction is one 32-bit word. An internal transition is labelled by an 8-bit code that has no operand bits (R99): its
operands, which its rule calls operands and no encoding gives bits to, stand beside the code in `Args` (DESIGN CHOICE, log 3). -/

namespace Sys2Proof

/-- The operands an internal transition may be given beside its 8-bit code (log 3). -/
structure Args where
  adc : Adc
  half : Half
  v0 : Sample
  v1 : Sample
  frame : Frame
  kind : DropKind
  cause : FatalCause
  deriving DecidableEq, Repr

/-- What an agent presents to the block: a transaction word (R90) or an internal code with its operands (R99). -/
inductive Code where
  | word (w : TxnWord)
  | label (code : BitVec 8) (args : Args)
  deriving DecidableEq, Repr

/-- The result of decoding: an operation, an illegal transaction word with its reason (R105), or a code that labels no
transition (R99 lists eight). -/
inductive Decoded where
  | instr (i : Instr)
  | illegal (reason : RejectReason)
  | noLabel (code : BitVec 8)
  deriving DecidableEq, Repr

/-- Every operand at its first value. -/
def Args.first : Args where
  adc := .adc0
  half := .first
  v0 := 0
  v1 := 0
  frame := { samples := [], sampleCount := 0, firstSampleIdx := 0, flags := 0 }
  kind := .resignal
  cause := .startAdc0Dma

/-- The number of an ADC, as a one-bit field (R93, R94). -/
def Adc.bit : Adc → BitVec 1
  | .adc0 => 0
  | .adc1 => 1

/-- The number of a half, as a one-bit field: 0 half-done, 1 full-done (R93). -/
def Half.bit : Half → BitVec 1
  | .first => 0
  | .second => 1

/-- The ADC a one-bit field names. -/
def Adc.ofBit (b : Bool) : Adc := if b then .adc1 else .adc0

/-- The half a one-bit field names. -/
def Half.ofBit (b : Bool) : Half := if b then .second else .first

/-- `OP`, bits [31:28] of a transaction word (R90). -/
def opField (w : TxnWord) : BitVec 4 := w.extractLsb' 28 4

/-- `A` of an EVT, bit [0] (R93). -/
def evtAdc (w : TxnWord) : Adc := Adc.ofBit (w.getLsbD 0)

/-- `H` of an EVT, bit [1] (R93). -/
def evtHalf (w : TxnWord) : Half := Half.ofBit (w.getLsbD 1)

/-- `A` of a DMAWR, bit [27] (R94). -/
def dmawrAdc (w : TxnWord) : Adc := Adc.ofBit (w.getLsbD 27)

/-- `IDX` of a DMAWR, bits [26:16] (R94). -/
def dmawrIdx (w : TxnWord) : BitVec 11 := w.extractLsb' 16 11

/-- `VAL` of a DMAWR, bits [15:0] (R94). -/
def dmawrVal (w : TxnWord) : Sample := w.extractLsb' 0 16

/-- `REG` of an RDSTAT, bits [7:0] (R95). -/
def rdstatReg (w : TxnWord) : BitVec 8 := w.extractLsb' 0 8

/-- `i`, if the bits from `lo` up to [27] are zero, as R92, R93 and R95 require (R97). -/
def ifZeroFrom (w : TxnWord) (lo : Nat) (i : Instr) : Decoded :=
  if w.extractLsb' lo (28 - lo) = 0 then .instr i else .illegal .nonzeroReservedBits

/-- Decoding a transaction word (R105). The range check of a DMAWR depends on `S` (R94). -/
def decodeWord (c : Config) (w : TxnWord) : Decoded :=
  match (opField w).toNat with
  | 1 => ifZeroFrom w 0 .init
  | 2 => ifZeroFrom w 0 .start
  | 3 => ifZeroFrom w 0 .tick
  | 4 => ifZeroFrom w 0 .rstream
  | 5 => ifZeroFrom w 2 (.evt (evtAdc w) (evtHalf w))
  | 6 =>
    if 2 * c.S ≤ (dmawrIdx w).toNat then .illegal .indexRange
    else .instr (.dmawr (dmawrAdc w) (dmawrIdx w) (dmawrVal w))
  | 7 => ifZeroFrom w 8 (.rdstat (rdstatReg w))
  | _ => .illegal .reservedOp

/-- Reading an internal code (R99) with its operands (log 3). -/
def decodeLabel (code : BitVec 8) (x : Args) : Decoded :=
  match code.toNat with
  | 0x81 => .instr (.smpl x.v0 x.v1)
  | 0x82 => .instr (.mark x.adc x.half)
  | 0x83 => .instr (.pack x.half)
  | 0x84 => .instr (.push x.frame)
  | 0x85 => .instr .pop
  | 0x86 => .instr .send
  | 0x87 => .instr (.lraise x.kind)
  | 0x88 => .instr (.fatal x.cause)
  | _ => .noLabel code

/-- Decoding whatever an agent presents. -/
def decode (c : Config) : Code → Decoded
  | .word w => decodeWord c w
  | .label code x => decodeLabel code x

/-- The word of INIT (R92). -/
def initWord : TxnWord := 0x10000000

/-- The word of START (R92). -/
def startWord : TxnWord := 0x20000000

/-- The word of TICK (R92). -/
def tickWord : TxnWord := 0x30000000

/-- The word of RSTREAM (R92). -/
def rstreamWord : TxnWord := 0x40000000

/-- The word of `EVT a, h` (R93). -/
def evtWord (a : Adc) (h : Half) : TxnWord :=
  0x50000000 ||| (h.bit.setWidth 32 <<< 1) ||| a.bit.setWidth 32

/-- The word of `DMAWR a, idx, val`: `0x60000000 | A<<27 | IDX<<16 | VAL` (R94). -/
def dmawrWord (a : Adc) (idx : BitVec 11) (val : Sample) : TxnWord :=
  0x60000000 ||| (a.bit.setWidth 32 <<< 27) ||| (idx.setWidth 32 <<< 16) ||| val.setWidth 32

/-- The word of `RDSTAT reg`: `0x70000000 | REG` (R95). -/
def rdstatWord (reg : BitVec 8) : TxnWord := 0x70000000 ||| reg.setWidth 32

/-- The encoder: the word of a transaction (R92–R95), the code of an internal transition (R99). -/
def encode : Instr → Code
  | .init => .word initWord
  | .start => .word startWord
  | .tick => .word tickWord
  | .rstream => .word rstreamWord
  | .evt a h => .word (evtWord a h)
  | .dmawr a idx val => .word (dmawrWord a idx val)
  | .rdstat reg => .word (rdstatWord reg)
  | .smpl v0 v1 => .label 0x81 { Args.first with v0 := v0, v1 := v1 }
  | .mark a h => .label 0x82 { Args.first with adc := a, half := h }
  | .pack h => .label 0x83 { Args.first with half := h }
  | .push f => .label 0x84 { Args.first with frame := f }
  | .pop => .label 0x85 Args.first
  | .send => .label 0x86 Args.first
  | .lraise k => .label 0x87 { Args.first with kind := k }
  | .fatal cause => .label 0x88 { Args.first with cause := cause }

/-- What the opcode table's row of `nbits` bits with value `w` stands for: 8 bits are an internal code (format INT8), any
other width a transaction word (format T). An internal code's operands are each at their first value (log 3). -/
def tableCode (nbits w : Nat) : Code :=
  if nbits = 8 then .label (BitVec.ofNat 8 w) Args.first else .word (BitVec.ofNat 32 w)

/-- The instruction the decoder reads from a word of the opcode table, with the reference build's parameters. -/
def decodeTableWord (nbits w : Nat) : Option Instr :=
  match decode Config.reference (tableCode nbits w) with
  | .instr i => some i
  | .illegal _ => none
  | .noLabel _ => none

end Sys2Proof
end

