-- ==== Sys2Proof/Machine/State.lean ====
section
/-! DEFINITION. Everything the spec gives the block to hold (10_state.md R22–R37, R50), its parameters, the inputs the
environment still has to give (log 2, log 4), and the state a power-on reset leaves (R39, R340). -/

namespace Sys2Proof.Machine

/-- `life` (R22). -/
inductive Life where
  | off
  | ready
  | running
  | fatal
  deriving DecidableEq, Repr

/-- `sender` (R35). Value 3 is never written and has no name (U13). -/
inductive Sender where
  | idle
  | draining
  | sending
  deriving DecidableEq, Repr

/-- The pending-pair map, `pending[a][h]` (R26): the name `adcA` `halfH` says which flag it is. -/
structure Pending where
  adc0First : Bool
  adc1First : Bool
  adc0Second : Bool
  adc1Second : Bool
  deriving DecidableEq, Repr

/-- A memory space of the block (R60): a list of (element index, element) pairs with indexes strictly rising, one pair for
each element a write has reached since power-on. An element that is not listed holds what power-on left there (log 5, log 6). -/
abbrev Memory (α : Type) := List (Nat × α)

/-- Indexes strictly rise, from above `lo`. -/
def Memory.risesFrom {α : Type} (lo : Nat) : Memory α → Bool
  | [] => true
  | (i, _) :: rest => decide (lo ≤ i) && Memory.risesFrom (i + 1) rest

/-- The canonical form of a memory space: indexes strictly rise. -/
def Memory.wf {α : Type} (m : Memory α) : Bool := Memory.risesFrom 0 m

/-- Every listed index is an index of a space of `n` elements. -/
def Memory.below {α : Type} (n : Nat) (m : Memory α) : Bool := m.all fun cell => decide (cell.1 < n)

/-- The calls of the network and peripheral host (R318). -/
inductive HostCall where
  | dmaStart (a : Adc)
  | timerStart
  | udpNew
  | udpConnect (h : Handle) (ip : BitVec 32) (port : BitVec 16)
  | pcbRelease (h : Handle)
  | alloc (bytes : Nat)
  | send (h : Handle) (datagram : List Byte)
  /-- `FREE(buf)`: the buffer from ALLOC, named by its length (log 12). -/
  | free (bytes : Nat)
  deriving DecidableEq, Repr

/-- A host's answer, by the type R318 gives the call. -/
inductive HostAnswer where
  | bool (b : Bool)
  | handle (h : Option Handle)
  | none
  deriving DecidableEq, Repr

/-- Responses to a transaction (R98). The reason of a REJECT is recorded with it (R304). -/
inductive Response where
  | ack
  | fail
  | reject (reason : RejectReason)
  | ignored
  | data (v : BitVec 32)
  deriving DecidableEq, Repr

/-- Events of the history (R50). -/
inductive Event where
  | txn (word : TxnWord) (response : Response)
  | published (slotIndex : Nat) (firstSampleIdx : BitVec 64) (flags : BitVec 16)
  | drop (kind : DropKind)
  | host (call : HostCall) (answer : HostAnswer)
  | datagram (bytes : List Byte) (ok : Bool)
  | fatal (cause : FatalCause)
  deriving DecidableEq, Repr

/-- One turn of an agent (R15, R16): which agent moves next and what it does (log 2). -/
inductive Turn where
  /-- An agent presents a transaction word, or takes the internal transition a code labels. -/
  | issue (c : Code)
  /-- The foreground host's waiting word is presented again (R275, log 8). -/
  | resume
  /-- Power-on reset (R340, log 7). -/
  | powerOn
  deriving DecidableEq, Repr

/-- The host's answers still to come (R17, R318, U4): scripts, and counters for the free answers after them (log 4). -/
structure Oracle where
  /-- Answers to the coming yes-or-no calls, in order. -/
  answers : List Bool
  /-- How many yes-or-no calls were answered. -/
  asked : Nat
  /-- Answers to the coming `UDP_NEW` calls, in order; `none` is NONE. -/
  handles : List (Option Handle)
  /-- How many `UDP_NEW` calls were answered. -/
  handlesAsked : Nat
  deriving DecidableEq, Repr

/-- The state of the block and of the agents around it. -/
structure State where
  /-- The parameters (R6–R8). No operation writes one (R42). -/
  cfg : Config
  /-- `life` (R22). -/
  life : Life
  /-- `fatal_cause` (R23). -/
  fatalCause : FatalCause
  /-- `err_cmd` (R24). -/
  errCmd : Bool
  /-- `drop_latch` (R25). -/
  dropLatch : BitVec 16
  /-- `pending` (R26). -/
  pending : Pending
  /-- `next_sample_idx` (R27). -/
  nextSampleIdx : BitVec 64
  /-- `buf[0]` (R28). -/
  buf0 : Memory Sample
  /-- `buf[1]` (R28). -/
  buf1 : Memory Sample
  /-- `q_read` (R29). -/
  qRead : BitVec 32
  /-- `q_write` (R29). -/
  qWrite : BitVec 32
  /-- `slot` (R30). -/
  slots : Memory Frame
  /-- `packet_sequence` (R32). -/
  packetSequence : BitVec 32
  /-- `stream_index` (R33). -/
  streamIndex : BitVec 64
  /-- `pcb`; `none` is NULL (R34). -/
  pcb : Option Handle
  /-- `sender` (R35). -/
  sender : Sender
  /-- `wf` (R36). -/
  wf : Frame
  /-- `dma_armed` (R37). -/
  dmaArmed : Bool
  /-- `dma_pos` (R37). -/
  dmaPos : Nat
  /-- The event history, oldest first (R50). No operation reads it. -/
  history : List Event
  /-- Foreground words that wait, unanswered, oldest first (R275, log 8). -/
  held : List TxnWord
  /-- The agents' coming turns, in order (log 2). The model's own. -/
  agenda : List Turn
  /-- The host's coming answers (log 4). The model's own. -/
  oracle : Oracle
  /-- How many power-on resets came before the one that made this state (log 7). The model's own. -/
  epoch : Nat
  deriving DecidableEq, Repr

/-- Why a step stops in a fault. -/
inductive Fault where
  /-- An access to `buf` outside `0 .. 2·S`, which no operation makes (R61). Raised by SMPL where `dma_pos` is outside its
  range, a state no rule reaches (log 10). Safe: the model stops. -/
  | noSuchElement (index : Nat)
  deriving DecidableEq, Repr

/-- Why a step has no meaning. -/
inductive Refusal where
  /-- An instruction without a meaning yet. Raised only by an arm of Dispatch.lean. Safe: the model stops. -/
  | notModelled (mnemonic : String)
  /-- An internal code outside 0x81 to 0x88, which labels no transition (R99). Raised by `step` (log 14). Safe: the model
  stops. -/
  | noSuchLabel (code : BitVec 8)
  deriving DecidableEq, Repr

/-- What power-on reset number `epoch` leaves in an instance with parameters `c` (R39, R340): the values of R39's table, an
empty history, and nothing listed in any memory. `agenda` and `oracle` are the environment's, which a reset of the block does
not touch (log 7). -/
def State.powerOn (c : Config) (epoch : Nat) (agenda : List Turn) (oracle : Oracle) : State where
  cfg := c
  life := .off
  fatalCause := .none
  errCmd := false
  dropLatch := 0
  pending := { adc0First := false, adc1First := false, adc0Second := false, adc1Second := false }
  nextSampleIdx := 0
  buf0 := []
  buf1 := []
  qRead := 0
  qWrite := 0
  slots := []
  packetSequence := 0
  streamIndex := 0
  pcb := none
  sender := .idle
  wf := Config.porWf epoch
  dmaArmed := false
  dmaPos := 0
  history := []
  held := []
  agenda := agenda
  oracle := oracle
  epoch := epoch

/-- An oracle with no script: every answer is a free value (U4). -/
def Oracle.unscripted : Oracle where
  answers := []
  asked := 0
  handles := []
  handlesAsked := 0

/-- The machine right after reset: the first power-on reset of the reference build, with no turn given yet (R340: "after POR
it does nothing until a transaction arrives"). -/
def State.reset : State := State.powerOn Config.reference 0 [] Oracle.unscripted

end Sys2Proof.Machine
end

