-- ==== Sys2Proof/Machine/Ops.lean ====
section
/-! DEFINITION. The named operations the meanings are built from: derived sizes (R9), reading and writing the memory spaces
(R60–R62), the history and responses (R50, R98), host calls (R318), FATAL entry and the power-on reset that is the only way
out of it (R305, R307, R340), and the foreground hold (R275). -/

namespace Sys2Proof.Machine

/-! ### Derived sizes (R9) -/

/-- `SAMPLE_BITS` as a number (R7). -/
def SampleBits.toNat : SampleBits → Nat
  | .bits8 => 8
  | .bits16 => 16

/-- `BYTES_PER_SAMPLE = ceil(SAMPLE_BITS / 8)` (R9). -/
def bytesPerSample (c : Config) : Nat := (SampleBits.toNat c.sampleBits + 7) / 8

/-- `HEADER_SIZE` (R9). -/
def headerSize : Nat := 20

/-- `FRAME_SAMPLES = S·C` (R9). -/
def frameSamples (c : Config) : Nat := c.S * Config.channels

/-- `PAYLOAD_SIZE = S·C·BYTES_PER_SAMPLE` (R9). -/
def payloadSize (c : Config) : Nat := c.S * Config.channels * bytesPerSample c

/-- `DATAGRAM_SIZE = HEADER_SIZE + PAYLOAD_SIZE` (R9). -/
def datagramSize (c : Config) : Nat := headerSize + payloadSize c

/-! ### Memory spaces (R60) -/

/-- The listed element at index `i`, if there is one. -/
def Memory.find {α : Type} (m : Memory α) (i : Nat) : Option α :=
  match m with
  | [] => none
  | (j, v) :: rest => if i = j then some v else Memory.find rest i

/-- Write element `i`, keeping the indexes rising. -/
def Memory.put {α : Type} (m : Memory α) (i : Nat) (v : α) : Memory α :=
  match m with
  | [] => [(i, v)]
  | (j, w) :: rest =>
    if i < j then (i, v) :: (j, w) :: rest
    else if i = j then (i, v) :: rest
    else (j, w) :: Memory.put rest i v

/-- `h·S`, the first element of a half (R28, R160), with `h` as a number. -/
def Half.index : Half → Nat
  | .first => 0
  | .second => 1

/-- `buf[a]` (R28). -/
def bufOf (a : Adc) (s : State) : Memory Sample :=
  match a with
  | .adc0 => s.buf0
  | .adc1 => s.buf1

/-- `MemRead(BUFa, i, 1)` (R13, R61): the element a write has reached, or what power-on left there (R28, U1). -/
def readSample (a : Adc) (i : Nat) (s : State) : Sample :=
  match Memory.find (bufOf a s) i with
  | some v => v
  | none => Config.porSample s.epoch a i

/-- `MemWrite(BUFa, i, 1, v)` (R13, R61). -/
def writeSample (a : Adc) (i : Nat) (v : Sample) (s : State) : State :=
  match a with
  | .adc0 => { s with buf0 := Memory.put s.buf0 i v }
  | .adc1 => { s with buf1 := Memory.put s.buf1 i v }

/-- Reading one whole slot (R62): the frame a PUSH put there, or what power-on left (R30, U2). -/
def readSlot (k : Nat) (s : State) : Frame :=
  match Memory.find s.slots k with
  | some f => f
  | none => Config.porSlot s.epoch k

/-- Writing one whole slot (R62). -/
def writeSlot (k : Nat) (f : Frame) (s : State) : State :=
  { s with slots := Memory.put s.slots k f }

/-! ### History, responses, rejections -/

/-- `record E` (R13, R50). -/
def record (e : Event) (s : State) : State := { s with history := s.history ++ [e] }

/-- `respond r` to the transaction whose word is `w` (R13, R98). -/
def respond (w : TxnWord) (r : Response) (s : State) : State := record (.txn w r) s

/-- Answering REJECT: `err_cmd <- 1` and nothing else (R96, R97, R98, R304). -/
def reject (w : TxnWord) (reason : RejectReason) (s : State) : State :=
  respond w (.reject reason) { s with errCmd := true }

/-! ### Host services (R318) -/

/-- The host's answer to its next yes-or-no call: the next of the script, else a free value (U4, log 4). -/
def answerNow (s : State) : Bool :=
  match s.oracle.answers with
  | b :: _ => b
  | [] => Config.hostAnswer s.oracle.asked

/-- The host's answer to its next `UDP_NEW` (U4, log 4). -/
def handleNow (s : State) : Option Handle :=
  match s.oracle.handles with
  | h :: _ => h
  | [] => Config.hostHandle s.oracle.handlesAsked

/-- Make a yes-or-no call: the answer is `answerNow`, it is used up, and the call is recorded (R50, R318). -/
def callBool (call : HostCall) (s : State) : State :=
  record (.host call (.bool (answerNow s)))
    { s with oracle := { s.oracle with answers := s.oracle.answers.tail, asked := s.oracle.asked + 1 } }

/-- Call `UDP_NEW`: the answer is `handleNow`, it is used up, and the call is recorded (R50, R318). -/
def callUdpNew (s : State) : State :=
  record (.host .udpNew (.handle (handleNow s)))
    { s with oracle :=
      { s.oracle with handles := s.oracle.handles.tail, handlesAsked := s.oracle.handlesAsked + 1 } }

/-- Make a call that has no answer and always completes (R318: `PCB_RELEASE`, `FREE`). -/
def callNone (call : HostCall) (s : State) : State := record (.host call .none) s

/-! ### FATAL entry, and the one way out of it -/

/-- `raise Fatal(cause)` (R305). What was written before stays; nothing else is saved (R302). -/
def raiseFatal (cause : FatalCause) (s : State) : State :=
  record (.fatal cause) { s with life := .fatal, fatalCause := cause }

/-- Power-on reset of a running instance, the only way out of FATAL (R307, R340): every field at its POR value, the
parameters kept (R6), the unspecified contents unspecified anew (log 7). -/
def powerOnReset (s : State) : State := State.powerOn s.cfg (s.epoch + 1) s.agenda s.oracle

/-! ### Admission and the foreground hold -/

/-- `life ∈ {READY, RUNNING}`. -/
def inService (s : State) : Bool := s.life == .ready || s.life == .running

/-- A tick is in progress in a state where foreground words are held (R275). -/
def holding (s : State) : Bool := inService s && s.sender != .idle

/-- A word whose `OP` is 0x1 to 0x4: a foreground transaction, legal or not (R91, R275). -/
def isForegroundWord (w : TxnWord) : Bool :=
  decide (1 ≤ (opField w).toNat) && decide ((opField w).toNat ≤ 4)

/-- A foreground word waits, unanswered (R275). -/
def hold (w : TxnWord) (s : State) : State := { s with held := s.held ++ [w] }

/-- A foreground transaction: held while a tick is in progress, else performed (R275). -/
def foreground (w : TxnWord) (perform : State → State) (s : State) : State :=
  if holding s then hold w s else perform s

/-- An illegal word (R96, R97): a foreground word is held before it is decoded (R275), any other is rejected at once. -/
def rejectIllegal (w : TxnWord) (reason : RejectReason) (s : State) : State :=
  if isForegroundWord w && holding s then hold w s else reject w reason s

end Sys2Proof.Machine
end

