-- ==== Sys2Proof/Machine/Flags.lean ====
section
/-! DEFINITION. The block's status flags (R41): the drop latch (R25, R75, R231), the pending-pair map (R26, R136), and the
admission flags of the consumer's steps (R221, R222) and of SMPL (R132). -/

namespace Sys2Proof.Machine

/-! ### The drop latch -/

/-- `raise Drop(kind)`: bit 0 of the latch is set and the drop is recorded (R13, R25, R231). -/
def raiseDrop (kind : DropKind) (s : State) : State :=
  record (.drop kind) { s with dropLatch := s.dropLatch ||| 0x0001 }

/-- The clear half of sample-and-clear (R25, R75); the sample is `s.dropLatch` in the same step. -/
def clearLatch (s : State) : State := { s with dropLatch := 0 }

/-! ### The pending-pair map -/

/-- `pending[a][h]` (R26). -/
def Pending.get (p : Pending) (a : Adc) (h : Half) : Bool :=
  match a, h with
  | .adc0, .first => p.adc0First
  | .adc1, .first => p.adc1First
  | .adc0, .second => p.adc0Second
  | .adc1, .second => p.adc1Second

/-- `pending[a][h] <- 1` (R136). -/
def Pending.set (p : Pending) (a : Adc) (h : Half) : Pending :=
  match a, h with
  | .adc0, .first => { p with adc0First := true }
  | .adc1, .first => { p with adc1First := true }
  | .adc0, .second => { p with adc0Second := true }
  | .adc1, .second => { p with adc1Second := true }

/-- `pending[0][h] <- 0` and `pending[1][h] <- 0`: the pair clear (R75, R136). -/
def Pending.clearHalf (p : Pending) (h : Half) : Pending :=
  match h with
  | .first => { p with adc0First := false, adc1First := false }
  | .second => { p with adc0Second := false, adc1Second := false }

/-- Both ADCs have signalled half `h` (R136, R140). -/
def Pending.pairDone (p : Pending) (h : Half) : Bool := p.get .adc0 h && p.get .adc1 h

/-- No half is pending (R26, R271). -/
def Pending.clear : Pending where
  adc0First := false
  adc1First := false
  adc0Second := false
  adc1Second := false

/-! ### When a step is enabled -/

/-- The consumer has the POP step (R221). -/
def popEnabled (s : State) : Bool := s.sender == .draining && inService s

/-- The consumer has the SEND step (R222). -/
def sendEnabled (s : State) : Bool := s.sender == .sending && inService s

/-- SMPL is enabled (R132, R133). -/
def smplEnabled (s : State) : Bool := s.cfg.dmaEnv == .lockstep && s.dmaArmed && s.life == .running

end Sys2Proof.Machine
end

