-- ==== Sys2Proof/Machine/Queue.lean ====
section
/-! DEFINITION. The frame queue: index domain, predicates, PUSH and the queue half of POP (43_queue.md R190–R197). -/

namespace Sys2Proof.Machine

/-- `M`, the index modulus (R191). -/
def modulus (c : Config) : Nat :=
  match c.queueFullRule with
  | .countQ => 2 * c.Q
  | .moduloReserveOne => c.Q

/-- `adv(x) = (x + 1) mod M` (R191), in a 32-bit field (R29). -/
def adv (c : Config) (x : BitVec 32) : BitVec 32 := BitVec.ofNat 32 ((x.toNat + 1) % modulus c)

/-- `slot_index(x) = x mod Q` (R192). -/
def slotIndex (c : Config) (x : BitVec 32) : Nat := x.toNat % c.Q

/-- `empty(r, w)` (R193). -/
def empty (r w : BitVec 32) : Bool := r == w

/-- `(w - r) mod m`, the difference taken in the integers (R194, R195). -/
def subMod (m : Nat) (w r : BitVec 32) : Nat := (w.toNat + (m - r.toNat % m)) % m

/-- `full(r, w)` (R194). -/
def full (c : Config) (r w : BitVec 32) : Bool :=
  match c.queueFullRule with
  | .countQ => subMod (2 * c.Q) w r == c.Q
  | .moduloReserveOne => (w.toNat + 1) % c.Q == r.toNat

/-- `count(r, w) = (w - r) mod M` (R195). -/
def count (c : Config) (r w : BitVec 32) : Nat := subMod (modulus c) w r

/-- The capacity: the largest occupancy reachable (R195). -/
def capacity (c : Config) : Nat :=
  match c.queueFullRule with
  | .countQ => c.Q
  | .moduloReserveOne => c.Q - 1

/-- The queue is full in this state. -/
def queueFull (s : State) : Bool := full s.cfg s.qRead s.qWrite

/-- The queue is empty in this state. -/
def queueEmpty (s : State) : Bool := empty s.qRead s.qWrite

/-- PUSH's writes: the slot first, then `q_write` (R71, R196). -/
def enqueue (f : Frame) (s : State) : State :=
  { writeSlot (slotIndex s.cfg s.qWrite) f s with qWrite := adv s.cfg s.qWrite }

/-- PUSH(f) (R196): FAIL (`none`, no state written) when full, else OK with the state after it. -/
def push (f : Frame) (s : State) : Option State :=
  if queueFull s then none else some (enqueue f s)

/-- PUSH(f) with the record every successful PUSH leaves (R50, R160): on FAIL no state is written (log 13). -/
def publish (f : Frame) (s : State) : State :=
  match push f s with
  | none => s
  | some t => record (.published (slotIndex s.cfg s.qWrite) f.firstSampleIdx f.flags) t

/-- The frame POP returns (R197). -/
def oldestFrame (s : State) : Frame := readSlot (slotIndex s.cfg s.qRead) s

/-- POP's write: the slot is free (R73, R197). -/
def dequeue (s : State) : State := { s with qRead := adv s.cfg s.qRead }

/-- PUSH as an operation of its own (R196). -/
def execPush (f : Frame) (s : State) : Host.Outcome State Fault Refusal := .next (publish f s)

end Sys2Proof.Machine
end

