-- ==== Sys2Proof/Machine/Operands.lean ====
section
/-! DEFINITION. The forms a value takes outside the state's own names: the numbers of the encoded states and causes (R22, R23,
R35, R302), the status register an RDSTAT names (R38), and bytes on the wire (R13, R64, R100, R101). -/

namespace Sys2Proof.Machine

/-! ### Encoded names -/

/-- The encoding of `life` (R22). -/
def Life.code : Life → Nat
  | .off => 0
  | .ready => 1
  | .running => 2
  | .fatal => 3

/-- The encoding of `sender` (R35). -/
def Sender.code : Sender → Nat
  | .idle => 0
  | .draining => 1
  | .sending => 2

/-- The code of a fatal cause (R302). -/
def fatalCode : FatalCause → Nat
  | .none => 0
  | .initBadArgs => 1
  | .startAdc0Dma => 2
  | .startAdc1Dma => 3
  | .startTimer => 4
  | .pcbNewFail => 5
  | .pcbConnectFail => 6

/-- The code of a drop kind (R303). It labels history events only; no register holds it. -/
def dropCode : DropKind → Nat
  | .resignal => 1
  | .queueFull => 2
  | .invalidFrame => 3
  | .allocFail => 4
  | .sendFail => 5

/-- The code of a response (R98). -/
def responseCode : Response → Nat
  | .ack => 0
  | .fail => 1
  | .reject _ => 2
  | .ignored => 3
  | .data _ => 4

/-- A flag as the number 0 or 1. -/
def bitOf (b : Bool) : Nat := if b then 1 else 0

/-! ### Status registers (R38) -/

/-- PENDING: [0] `pending[0][0]`, [1] `pending[1][0]`, [2] `pending[0][1]`, [3] `pending[1][1]` (R38). -/
def pendingBits (p : Pending) : Nat :=
  bitOf p.adc0First + 2 * bitOf p.adc1First + 4 * bitOf p.adc0Second + 8 * bitOf p.adc1Second

/-- CONFIG2 (R38): bit 0 `QUEUE_FULL_RULE`, 1 `INDEX_ON_QUEUE_FULL`, 2 `WIRE_INDEX_SOURCE`, 3 `SEQ_ADVANCE`, 4 `DMA_ENV`. -/
def behaviourBits (c : Config) : Nat :=
  bitOf (c.queueFullRule == .moduloReserveOne) + 2 * bitOf (c.indexOnQueueFull == .hold)
    + 4 * bitOf (c.wireIndexSource == .stream) + 8 * bitOf (c.seqAdvance == .onSuccess)
    + 16 * bitOf (c.dmaEnv == .lockstep)

/-- The value of status register `reg`, or nothing where the number is reserved (R38). -/
def statusRegister (reg : BitVec 8) (s : State) : Option (BitVec 32) :=
  match reg.toNat with
  | 0x00 => some (BitVec.ofNat 32 (Life.code s.life))
  | 0x01 => some (BitVec.ofNat 32 (fatalCode s.fatalCause))
  | 0x02 => some (BitVec.ofNat 32 (bitOf s.errCmd))
  | 0x03 => some (s.dropLatch.setWidth 32)
  | 0x04 => some (BitVec.ofNat 32 (pendingBits s.pending))
  | 0x05 => some (s.nextSampleIdx.extractLsb' 0 32)
  | 0x06 => some (s.nextSampleIdx.extractLsb' 32 32)
  | 0x07 => some s.qRead
  | 0x08 => some s.qWrite
  | 0x09 => some (BitVec.ofNat 32 (count s.cfg s.qRead s.qWrite))
  | 0x0A => some s.packetSequence
  | 0x0B => some (s.streamIndex.extractLsb' 0 32)
  | 0x0C => some (s.streamIndex.extractLsb' 32 32)
  | 0x0D => some (BitVec.ofNat 32 (bitOf s.pcb.isSome))
  | 0x0E => some (BitVec.ofNat 32 (Sender.code s.sender))
  | 0x10 => some (BitVec.ofNat 32
      (s.cfg.S + 2 ^ 16 * Config.channels + 2 ^ 24 * SampleBits.toNat s.cfg.sampleBits))
  | 0x11 => some (BitVec.ofNat 32 s.cfg.Q)
  | 0x12 => some (BitVec.ofNat 32 (behaviourBits s.cfg))
  | 0x13 => some s.cfg.destIp
  | 0x14 => some (s.cfg.destPort.setWidth 32)
  | _ => none

/-! ### Bytes on the wire -/

/-- `LE_N(v)` for `N = 8·n`: the bytes of `v`, least significant first (R13, R64). -/
def littleEndian {w : Nat} (n : Nat) (v : BitVec w) : List Byte :=
  (List.range n).map fun k => v.extractLsb' (8 * k) 8

/-- The word PACK stores for a sample: at 8 bits its low byte, zero-extended; at 16 bits the sample (R160, R165). -/
def storedSample (c : Config) (w : Sample) : Sample :=
  match c.sampleBits with
  | .bits8 => (w.extractLsb' 0 8).setWidth 16
  | .bits16 => w

/-- The bytes of one sample on the wire (R101, R228). -/
def sampleBytes (c : Config) (w : Sample) : List Byte :=
  match c.sampleBits with
  | .bits8 => [w.extractLsb' 0 8]
  | .bits16 => littleEndian 2 w

/-- `samples[j]` of a frame record. A record has `S·C` samples (R31); past its end the value is free (log 11). -/
def frameSample (f : Frame) (j : Nat) : Sample :=
  match f.samples[j]? with
  | some w => w
  | none => Config.missingSample j

/-- `header(seq, idx, f)`, 20 bytes (R100, R225). -/
def header (c : Config) (seq : BitVec 32) (idx : BitVec 64) (f : Frame) : List Byte :=
  littleEndian 4 seq ++ littleEndian 8 idx ++ littleEndian 2 (BitVec.ofNat 16 Config.channels)
    ++ littleEndian 2 (BitVec.ofNat 16 (f.sampleCount.toNat / Config.channels))
    ++ littleEndian 2 f.flags ++ littleEndian 2 (BitVec.ofNat 16 (SampleBits.toNat c.sampleBits))

/-- `payload(f)`: the samples in order (R101, R228). -/
def payload (c : Config) (f : Frame) : List Byte :=
  (List.range f.sampleCount.toNat).flatMap fun j => sampleBytes c (frameSample f j)

end Sys2Proof.Machine
end

