-- ==== Sys2Proof/Machine/Pack.lean ====
section
/-! DEFINITION. The half-pairing interleaver: PACK (42_pack.md R160, R161). -/

namespace Sys2Proof.Machine

/-- `next_sample_idx + S` modulo `2^64` (R27, R160). -/
def advanceIndex (s : State) : State :=
  { s with nextSampleIdx := s.nextSampleIdx + BitVec.ofNat 64 s.cfg.S }

/-- The two words of time-step `i` of a half that starts at `base`, channel 0 first (R160, R162). -/
def timeStep (base i : Nat) (s : State) : List Sample :=
  [storedSample s.cfg (readSample .adc0 (base + i) s), storedSample s.cfg (readSample .adc1 (base + i) s)]

/-- `f.samples`: the `S` time-steps of a half, in order (R160, R162). -/
def halfSamples (h : Half) (s : State) : List Sample :=
  (List.range s.cfg.S).flatMap fun i => timeStep (Half.index h * s.cfg.S) i s

/-- The frame PACK builds from half `h`: the latch sampled into `flags`, the index before its advance (R160). -/
def buildFrame (h : Half) (s : State) : Frame where
  samples := halfSamples h s
  sampleCount := BitVec.ofNat 32 (frameSamples s.cfg)
  firstSampleIdx := s.nextSampleIdx
  flags := s.dropLatch

/-- PACK on a full queue: the half is discarded, the latch raised, and under ADVANCE the index moves on (R160). -/
def discardHalf (s : State) : State :=
  match s.cfg.indexOnQueueFull with
  | .advance => advanceIndex (raiseDrop .queueFull s)
  | .hold => raiseDrop .queueFull s

/-- PACK's defensive guard, which no configuration meets (R161). -/
def packAborts (h : Half) (c : Config) : Bool :=
  decide (2 * c.S < Half.index h * c.S + c.S) || Config.channels == 0 || c.S == 0

/-- PACK(h) (R160). -/
def pack (h : Half) (s : State) : State :=
  if packAborts h s.cfg then s
  else if queueFull s then discardHalf s
  else publish (buildFrame h s) (clearLatch (advanceIndex s))

/-- PACK as an operation of its own (R160). -/
def execPack (h : Half) (s : State) : Host.Outcome State Fault Refusal := .next (pack h s)

end Sys2Proof.Machine
end

