-- ==== Sys2Proof/Machine/Capture.lean ====
section
/-! DEFINITION. The DMA capture monitor: MARK, EVT, DMAWR and the LOCKSTEP sample clock SMPL (41_capture.md R130–R140). -/

namespace Sys2Proof.Machine

/-- MARK's first part: a bit found set raises the latch (R136). -/
def resignal (a : Adc) (h : Half) (s : State) : State :=
  if s.pending.get a h then raiseDrop .resignal s else s

/-- `pending[a][h] <- 1` (R136). -/
def setPending (a : Adc) (h : Half) (s : State) : State := { s with pending := s.pending.set a h }

/-- Pair completion: both bits of the half are cleared, and then the half is packed (R136). -/
def completePair (h : Half) (s : State) : State :=
  if s.pending.pairDone h then pack h { s with pending := s.pending.clearHalf h } else s

/-- MARK(a, h), the source's `mark_ready(a, h)` (R136). -/
def mark (a : Adc) (h : Half) (s : State) : State := completePair h (setPending a h (resignal a h s))

/-- MARK as an operation of its own (R136). -/
def execMark (a : Adc) (h : Half) (s : State) : Host.Outcome State Fault Refusal := .next (mark a h s)

/-- EVT (R135): a DMA event, acted on in READY and RUNNING and ignored elsewhere without a command error (D13). -/
def execEvt (a : Adc) (h : Half) (s : State) : Host.Outcome State Fault Refusal :=
  .next <|
    if inService s then respond (evtWord a h) .ack (mark a h s)
    else respond (evtWord a h) .ignored s

/-- DMAWR (R134): one element, in every lifecycle state; an index outside the buffer is rejected (R97). -/
def execDmawr (a : Adc) (idx : BitVec 11) (val : Sample) (s : State) : Host.Outcome State Fault Refusal :=
  .next <|
    if idx.toNat < 2 * s.cfg.S then respond (dmawrWord a idx val) .ack (writeSample a idx.toNat val s)
    else reject (dmawrWord a idx val) .indexRange s

/-- The two writes of one sample-clock period (R133). -/
def writePair (v0 v1 : Sample) (s : State) : State :=
  writeSample .adc1 s.dmaPos v1 (writeSample .adc0 s.dmaPos v0 s)

/-- The events of one sample-clock period that brings the position to `p1`, ADC0's first (R133). -/
def clockEvents (p1 : Nat) (s : State) : State :=
  let t := if p1 = s.cfg.S then mark .adc1 .first (mark .adc0 .first s) else s
  if p1 = 2 * s.cfg.S then mark .adc1 .second (mark .adc0 .second t) else t

/-- The position after `p1`: the circular wrap (R133). -/
def wrapPos (c : Config) (p1 : Nat) : Nat := if p1 = 2 * c.S then 0 else p1

/-- One sample-clock period (R133). -/
def samplePeriod (v0 v1 : Sample) (s : State) : State :=
  { clockEvents (s.dmaPos + 1) (writePair v0 v1 s) with dmaPos := wrapPos s.cfg (s.dmaPos + 1) }

/-- SMPL (R133). Where it is not enabled "SMPL has no step": nothing changes (log 9). A position outside the buffers is a state
no rule reaches, and a fault (R61, log 10). -/
def execSmpl (v0 v1 : Sample) (s : State) : Host.Outcome State Fault Refusal :=
  if smplEnabled s then
    if s.dmaPos < 2 * s.cfg.S then .next (samplePeriod v0 v1 s) else .fault (.noSuchElement s.dmaPos)
  else .next s

end Sys2Proof.Machine
end

