-- ==== Sys2Proof/Machine/Lifecycle.lean ====
section
/-! DEFINITION. Lifecycle and status: INIT, START, RDSTAT and FATAL entry as an operation (45_lifecycle.md R270–R275,
60_exceptions.md R305). -/

namespace Sys2Proof.Machine

/-- INIT's writes (R271). It cannot fail: the conditions the source checks hold by construction (D28). -/
def initialise (s : State) : State :=
  { s with pending := Pending.clear, dropLatch := 0, nextSampleIdx := 0, life := .ready }

/-- INIT (R271): performed in OFF only (R270), held during a tick (R275). -/
def execInit (s : State) : Host.Outcome State Fault Refusal :=
  .next <| foreground initWord
    (fun s => if s.life = .off then respond initWord .ack (initialise s) else reject initWord .state s) s

/-- START's writes when all three calls succeeded: RUNNING, and under LOCKSTEP the environment is armed (R272). -/
def running (s : State) : State :=
  match s.cfg.dmaEnv with
  | .free => { s with life := .running }
  | .lockstep => { s with dmaArmed := true, dmaPos := 0, life := .running }

/-- A failed start call: FATAL, then FAIL (R272, R305). -/
def startFails (cause : FatalCause) (s : State) : State := respond startWord .fail (raiseFatal cause s)

/-- START's three calls in order; the first that fails ends it (R272, D15). -/
def startCalls (s : State) : State :=
  let s0 := callBool (.dmaStart .adc0) s
  let s1 := callBool (.dmaStart .adc1) s0
  let s2 := callBool .timerStart s1
  if !answerNow s then startFails .startAdc0Dma s0
  else if !answerNow s0 then startFails .startAdc1Dma s1
  else if !answerNow s1 then startFails .startTimer s2
  else respond startWord .ack (running s2)

/-- START (R272): performed in READY only (R270), held during a tick (R275). -/
def execStart (s : State) : Host.Outcome State Fault Refusal :=
  .next <| foreground startWord
    (fun s => if s.life = .ready then startCalls s else reject startWord .state s) s

/-- RDSTAT (R273): every state, never held; a reserved number is rejected. -/
def execRdstat (reg : BitVec 8) (s : State) : Host.Outcome State Fault Refusal :=
  .next <|
    match statusRegister reg s with
    | some v => respond (rdstatWord reg) (.data v) s
    | none => reject (rdstatWord reg) .reservedReg s

/-- FATAL(cause) as an operation of its own (R305). -/
def execFatal (cause : FatalCause) (s : State) : Host.Outcome State Fault Refusal := .next (raiseFatal cause s)

end Sys2Proof.Machine
end

