-- ==== Sys2Proof/Machine/Sender.lean ====
section
/-! DEFINITION. The sender: TICK, the consumer's POP and SEND steps, LRAISE, and the stream reset RSTREAM (44_sender.md
R220–R235). -/

namespace Sys2Proof.Machine

/-- TICK (R220): a tick begins; rejected outside READY and RUNNING (R270), held during a tick (R275). -/
def execTick (s : State) : Host.Outcome State Fault Refusal :=
  .next <| foreground tickWord
    (fun s =>
      if inService s then respond tickWord .ack { s with sender := .draining }
      else reject tickWord .state s) s

/-- The consumer's POP step (R221): the oldest frame goes to `wf` and its slot is free, or the tick ends. -/
def popStep (s : State) : State :=
  if queueEmpty s then { s with sender := .idle }
  else { dequeue { s with wf := oldestFrame s } with sender := .sending }

/-- POP (R221). Where the consumer does not have this step nothing changes (log 9). -/
def execPop (s : State) : Host.Outcome State Fault Refusal :=
  .next <| if popEnabled s then popStep s else s

/-- SEND's validation (R223). -/
def frameSendable (s : State) : Bool :=
  decide (0 < s.wf.sampleCount.toNat) && s.wf.sampleCount.toNat % Config.channels == 0 && s.pcb.isSome

/-- The length SEND asks ALLOC for (R224). -/
def datagramLength (s : State) : Nat := headerSize + s.wf.sampleCount.toNat * bytesPerSample s.cfg

/-- The header's sample index (R226). -/
def wireIndex (s : State) : BitVec 64 :=
  match s.cfg.wireIndexSource with
  | .frame => s.wf.firstSampleIdx
  | .stream => s.streamIndex

/-- The datagram SEND forms from `wf` (R100, R101, R222). -/
def formDatagram (s : State) : List Byte :=
  header s.cfg s.packetSequence (wireIndex s) s.wf ++ payload s.cfg s.wf

/-- The sequence number and the stream index move on (R227). -/
def advanceSequence (s : State) : State :=
  { s with packetSequence := s.packetSequence + 1, streamIndex := s.streamIndex + BitVec.ofNat 64 s.cfg.S }

/-- `advanceSequence` under ON_FORM (R227). -/
def advanceOnForm (s : State) : State :=
  match s.cfg.seqAdvance with
  | .onForm => advanceSequence s
  | .onSuccess => s

/-- `advanceSequence` under ON_SUCCESS, if the datagram was accepted (R227). -/
def advanceOnSuccess (ok : Bool) (s : State) : State :=
  match s.cfg.seqAdvance with
  | .onForm => s
  | .onSuccess => if ok then advanceSequence s else s

/-- A refused datagram raises the latch (R230). -/
def reportSend (ok : Bool) (s : State) : State := if ok then s else raiseDrop .sendFail s

/-- SEND once the buffer of `n` bytes is allocated: submit the formed bytes, free the buffer, record, sequence and report
(R222, R227, R229, R230). -/
def submitDatagram (h : Handle) (n : Nat) (bytes : List Byte) (s : State) : State :=
  let ok := answerNow s
  let sent := callNone (.free n) (callBool (.send h bytes) s)
  reportSend ok (advanceOnSuccess ok (record (.datagram bytes ok) sent))

/-- SEND with a valid frame and the stream's PCB `h` (R222, R224). -/
def sendFrame (h : Handle) (s : State) : State :=
  let t := callBool (.alloc (datagramLength s)) s
  if answerNow s then submitDatagram h (datagramLength s) (formDatagram s) (advanceOnForm t)
  else raiseDrop .allocFail t

/-- The consumer's SEND step: every path returns to the drain loop (R222). -/
def sendStep (s : State) : State :=
  let t := { s with sender := .draining }
  if frameSendable s then
    match s.pcb with
    | some h => sendFrame h t
    | none => t
  else raiseDrop .invalidFrame t

/-- SEND (R222). Where the consumer does not have this step nothing changes (log 9). -/
def execSend (s : State) : Host.Outcome State Fault Refusal :=
  .next <| if sendEnabled s then sendStep s else s

/-- LRAISE(kind) as an operation of its own (R231). -/
def execLraise (kind : DropKind) (s : State) : Host.Outcome State Fault Refusal := .next (raiseDrop kind s)

/-- RSTREAM's first part: the counters are zero and the old PCB, if any, is released (R232). -/
def tearDown (s : State) : State :=
  let z := { s with packetSequence := 0, streamIndex := 0 }
  match s.pcb with
  | some h => { callNone (.pcbRelease h) z with pcb := none }
  | none => z

/-- RSTREAM's last part: connect the new PCB `h`, or release it and enter FATAL (R232). -/
def connectStream (h : Handle) (s : State) : State :=
  let t := callBool (.udpConnect h s.cfg.destIp s.cfg.destPort) s
  if answerNow s then respond rstreamWord .ack { t with pcb := some h }
  else respond rstreamWord .fail (raiseFatal .pcbConnectFail (callNone (.pcbRelease h) t))

/-- The stream reset (R232). -/
def resetStream (s : State) : State :=
  let d := tearDown s
  match handleNow d with
  | none => respond rstreamWord .fail (raiseFatal .pcbNewFail (callUdpNew d))
  | some h => connectStream h (callUdpNew d)

/-- RSTREAM (R232): rejected outside READY and RUNNING (R270), held during a tick (R275). -/
def execRstream (s : State) : Host.Outcome State Fault Refusal :=
  .next <| foreground rstreamWord
    (fun s => if inService s then resetStream s else reject rstreamWord .state s) s

end Sys2Proof.Machine
end

