-- ==== Sys2Proof/Machine/Dispatch.lean ====
section
/-! DEFINITION. What each operation does: one arm per constructor of Instr. -/

namespace Sys2Proof.Machine

def exec (i : Instr) (s : State) : Host.Outcome State Fault Refusal :=
  match i with
  | .init => Sys2Proof.Machine.execInit s
  | .start => Sys2Proof.Machine.execStart s
  | .tick => Sys2Proof.Machine.execTick s
  | .rstream => Sys2Proof.Machine.execRstream s
  | .evt a h => Sys2Proof.Machine.execEvt a h s
  | .dmawr a idx val => Sys2Proof.Machine.execDmawr a idx val s
  | .rdstat reg => Sys2Proof.Machine.execRdstat reg s
  | .smpl v0 v1 => Sys2Proof.Machine.execSmpl v0 v1 s
  | .mark a h => Sys2Proof.Machine.execMark a h s
  | .pack h => Sys2Proof.Machine.execPack h s
  | .push f => Sys2Proof.Machine.execPush f s
  | .pop => Sys2Proof.Machine.execPop s
  | .send => Sys2Proof.Machine.execSend s
  | .lraise kind => Sys2Proof.Machine.execLraise kind s
  | .fatal cause => Sys2Proof.Machine.execFatal cause s

end Sys2Proof.Machine
end

