-- ==== Sys2Proof/Machine/Step.lean ====
section
/-! DEFINITION. One step: the next turn of the agenda is taken (R15, R16, log 2). -/

namespace Sys2Proof.Machine

/-- An agent presents `c`: it is decoded and performed, or answered as illegal (R96, R97, R105), or refused where it is a code
that labels no transition (log 14). -/
def accept (c : Code) (s : State) : Host.Outcome State Fault Refusal :=
  match decode s.cfg c with
  | .instr i => exec i s
  | .illegal reason =>
    match c with
    | .word w => .next (rejectIllegal w reason s)
    | .label _ _ => .next s
  | .noLabel code => .refused (.noSuchLabel code)

/-- The foreground host presents its oldest waiting word again, if there is one and the hold is lifted (R275, log 8). -/
def resumeForeground (s : State) : Host.Outcome State Fault Refusal :=
  match s.held with
  | [] => .next s
  | w :: ws => if holding s then .next s else accept (.word w) { s with held := ws }

/-- One turn. -/
def takeTurn (t : Turn) (s : State) : Host.Outcome State Fault Refusal :=
  match t with
  | .issue c => accept c s
  | .resume => resumeForeground s
  | .powerOn => .next (powerOnReset s)

/-- One step of the machine. With no turn left no agent moves, and nothing changes (R321, R340). -/
def step (s : State) : Host.Outcome State Fault Refusal :=
  match s.agenda with
  | [] => .next s
  | t :: rest => takeTurn t { s with agenda := rest }

/-- `s` with the opcode table's word placed as the next turn (log 2, log 3). -/
def State.withFetchWord (s : State) (nbits w : Nat) : State :=
  { s with agenda := .issue (tableCode nbits w) :: s.agenda }

end Sys2Proof.Machine
end

