-- ==== Sys2Proof/Safety.lean ====
section
/-! DEFINITION. The terms claims are stated in: what the spec's agents may do, which states a run can reach, what the queue
holds, what the history says, what a receiver reads from a datagram, and when a run starts, is a fault run or is quiescent. -/

namespace Sys2Proof.Machine

/-! ### What the spec's agents do (R15, R131, R132, R99) -/

/-- A DMA transaction: EVT or DMAWR (R91). -/
def isDmaWord (w : TxnWord) : Bool := opField w == 5 || opField w == 6

/-- A turn some agent of the spec takes. Sub-operations (MARK, PACK, PUSH, LRAISE, FATAL) happen only inside other steps
(R99, R136, R160, R196, R231, R305); SMPL occurs only under LOCKSTEP (R131); a LOCKSTEP environment issues no DMA words
(R132). -/
def Turn.lawful (c : Config) : Turn → Bool
  | .issue (.word w) => c.dmaEnv == .free || !isDmaWord w
  | .issue (.label code _) => code == 0x85 || code == 0x86 || (code == 0x81 && c.dmaEnv == .lockstep)
  | .resume => true
  | .powerOn => true

/-- Every coming turn is one the spec's agents take, and only foreground words wait (R275). -/
def Lawful (s : State) : Prop :=
  s.agenda.all (Turn.lawful s.cfg) = true ∧ s.held.all isForegroundWord = true

/-! ### States a run can reach -/

/-- What holds of every state a run reaches, whatever its turns are: memories in canonical form and inside their spaces
(R60, R61, R62), queue indexes in their domain (R191) with at most the capacity occupied (R198), no half with both bits
pending (R140), bits 15:1 of the latch zero (R25), and the sample position inside the buffers (R37). -/
structure Invariant (s : State) : Prop where
  buf0 : Memory.wf s.buf0 = true ∧ Memory.below (2 * s.cfg.S) s.buf0 = true
  buf1 : Memory.wf s.buf1 = true ∧ Memory.below (2 * s.cfg.S) s.buf1 = true
  slots : Memory.wf s.slots = true ∧ Memory.below s.cfg.Q s.slots = true
  qRead : s.qRead.toNat < modulus s.cfg
  qWrite : s.qWrite.toNat < modulus s.cfg
  occupancy : count s.cfg s.qRead s.qWrite ≤ capacity s.cfg
  pending : ∀ h, s.pending.pairDone h = false
  latch : s.dropLatch = 0 ∨ s.dropLatch = 1
  position : s.dmaPos < 2 * s.cfg.S

/-- The slot that holds the `j`-th oldest frame: `slot_index(q_read + j mod M)` (R198). -/
def occupiedSlot (s : State) (j : Nat) : Nat := (s.qRead.toNat + j) % modulus s.cfg % s.cfg.Q

/-- The frames published and not yet popped, oldest first (R198). -/
def queueContents (s : State) : List Frame :=
  (List.range (count s.cfg s.qRead s.qWrite)).map fun j => readSlot (occupiedSlot s j) s

/-- Every frame in the queue, and the one the consumer is about to send, is a frame record PACK can build (R31, R160). -/
def FramesSound (s : State) : Prop :=
  (∀ f ∈ queueContents s, f.wellFormed s.cfg = true) ∧ (s.sender = .sending → s.wf.wellFormed s.cfg = true)

/-! ### Which fields two states may differ in (R40) -/

/-- `t` differs from `s` at most in what the producer writes (R40) and in the history. -/
def OnlyProducerWrites (s t : State) : Prop :=
  t = { s with
    pending := t.pending
    dropLatch := t.dropLatch
    nextSampleIdx := t.nextSampleIdx
    slots := t.slots
    qWrite := t.qWrite
    history := t.history }

/-- `t` differs from `s` at most in what the consumer writes (R40), in the history and in the host's answers used up. -/
def OnlyConsumerWrites (s t : State) : Prop :=
  t = { s with
    qRead := t.qRead
    dropLatch := t.dropLatch
    packetSequence := t.packetSequence
    streamIndex := t.streamIndex
    sender := t.sender
    wf := t.wf
    history := t.history
    oracle := t.oracle }

/-- Every element of both buffers reads the same. -/
def SameBuffers (s t : State) : Prop := ∀ a i, readSample a i t = readSample a i s

/-- Every slot reads the same. -/
def SameSlots (s t : State) : Prop := ∀ k, readSlot k t = readSlot k s

/-! ### The host's coming answers (R318) -/

/-- The host's answer to its next yes-or-no call but `k`: the script's, else a free value (U4, log 4). -/
def answerAt (s : State) (k : Nat) : Bool :=
  match s.oracle.answers[k]? with
  | some b => b
  | none => Config.hostAnswer (s.oracle.asked + k)

/-- The host's oracle after `n` more yes-or-no answers. -/
def Oracle.answered (o : Oracle) (n : Nat) : Oracle :=
  { o with answers := o.answers.drop n, asked := o.asked + n }

/-- The host's oracle after one more `UDP_NEW`. -/
def Oracle.handled (o : Oracle) : Oracle :=
  { o with handles := o.handles.tail, handlesAsked := o.handlesAsked + 1 }

/-- What RSTREAM records for the PCB it tears down, if there is one (R232). -/
def releaseEvents : Option Handle → List Event
  | some old => [.host (.pcbRelease old) .none]
  | none => []

/-! ### What the history says (R50) -/

/-- Whether a raise took effect after the last publication, one event later (R164). -/
def latchStep (raised : Bool) : Event → Bool
  | .drop _ => true
  | .published _ _ _ => false
  | .txn _ _ | .host _ _ | .datagram _ _ | .fatal _ => raised

/-- Whether a raise took effect after the last publication of a history (R164). -/
def raisedSince (h : List Event) : Bool := h.foldl latchStep false

/-- The sample index one event later: `S` more for a publication, and under ADVANCE for a half lost to a full queue (R163). -/
def indexStep (c : Config) (n : BitVec 64) : Event → BitVec 64
  | .published _ _ _ => n + BitVec.ofNat 64 c.S
  | .drop .queueFull =>
    match c.indexOnQueueFull with
    | .advance => n + BitVec.ofNat 64 c.S
    | .hold => n
  | .drop _ | .txn _ _ | .host _ _ | .datagram _ _ | .fatal _ => n

/-- The sample index a history leads to (R163). -/
def indexAfter (c : Config) (h : List Event) : BitVec 64 := h.foldl (indexStep c) 0

/-- The sequence number one event later: one more for a datagram formed (under ON_SUCCESS: accepted), zero after a stream
reset, which is where `UDP_NEW` is called (R227, R232, R233). -/
def sequenceStep (c : Config) (n : BitVec 32) : Event → BitVec 32
  | .datagram _ ok =>
    match c.seqAdvance with
    | .onForm => n + 1
    | .onSuccess => if ok then n + 1 else n
  | .host .udpNew _ => 0
  | .host _ _ | .txn _ _ | .published _ _ _ | .drop _ | .fatal _ => n

/-- The sequence number a history leads to (R233). -/
def sequenceAfter (c : Config) (h : List Event) : BitVec 32 := h.foldl (sequenceStep c) 0

/-- The latch is what the history says, and so were the flags of every frame published (R164). -/
structure FlagsLaw (s : State) : Prop where
  now : s.dropLatch = if raisedSince s.history then 1 else 0
  published : ∀ before after k idx flags,
    s.history = before ++ Event.published k idx flags :: after → flags = if raisedSince before then 1 else 0
  beforeInit : s.life = .off → raisedSince s.history = false

/-- The next sample index is what the history says, and so was the index of every frame published (R163). -/
structure IndexLaw (s : State) : Prop where
  now : s.nextSampleIdx = indexAfter s.cfg s.history
  published : ∀ before after k idx flags,
    s.history = before ++ Event.published k idx flags :: after → idx = indexAfter s.cfg before
  beforeInit : s.life = .off → indexAfter s.cfg s.history = 0

/-- The next sequence number is what the history says, and so were the first four bytes of every datagram (R233). -/
structure SequenceLaw (s : State) : Prop where
  now : s.packetSequence = sequenceAfter s.cfg s.history
  formed : ∀ before after bytes ok,
    s.history = before ++ Event.datagram bytes ok :: after →
      bytes.take 4 = littleEndian 4 (sequenceAfter s.cfg before)

/-- The datagrams submitted, in order: the WIRE space (R60). -/
def wire (s : State) : List (List Byte) :=
  s.history.filterMap fun e =>
    match e with
    | .datagram bytes _ => some bytes
    | .txn _ _ | .published _ _ _ | .drop _ | .host _ _ | .fatal _ => none

/-! ### A receiver (R100–R103) -/

/-- What a receiver reads from a datagram (R100). -/
structure Parsed where
  packetSeq : Nat
  firstSampleIdx : Nat
  channels : Nat
  samplesPerCh : Nat
  flags : Nat
  sampleBits : Nat
  samples : List Nat
  deriving DecidableEq, Repr

/-- The number little-endian bytes stand for (R64). -/
def fromBytes : List Byte → Nat
  | [] => 0
  | b :: rest => b.toNat + 256 * fromBytes rest

/-- Cut the payload into samples: one byte each, or two bytes low byte first (R101). -/
def cutSamples : SampleBits → List Byte → List Nat
  | .bits8, [] => []
  | .bits8, b :: rest => b.toNat :: cutSamples .bits8 rest
  | .bits16, lo :: hi :: rest => fromBytes [lo, hi] :: cutSamples .bits16 rest
  | .bits16, [_] => []
  | .bits16, [] => []

/-- Parsing a datagram by the byte offsets of R100, with the payload's width given. -/
def parse (width : SampleBits) (d : List Byte) : Parsed where
  packetSeq := fromBytes (d.take 4)
  firstSampleIdx := fromBytes ((d.drop 4).take 8)
  channels := fromBytes ((d.drop 12).take 2)
  samplesPerCh := fromBytes ((d.drop 14).take 2)
  flags := fromBytes ((d.drop 16).take 2)
  sampleBits := fromBytes ((d.drop 18).take 2)
  samples := cutSamples width (d.drop 20)

/-! ### Starts, fault runs and ends of runs -/

/-- The shared clean start: the state a power-on reset leaves (R344). -/
def CleanStart (s : State) : Prop := s = State.powerOn s.cfg s.epoch s.agenda s.oracle

/-- The start of a run that has done bring-up (R344). -/
def BroughtUp (s : State) : Prop :=
  s.life = .running ∧ s.errCmd = false ∧ s.fatalCause = .none ∧ s.sender = .idle ∧ s.pcb.isSome = true
    ∧ queueEmpty s = true ∧ s.dropLatch = 0 ∧ s.pending = Pending.clear

/-- A fault run: FATAL was entered (R306). -/
def FaultRun (s : State) : Prop := ∃ cause, Event.fatal cause ∈ s.history

/-- Quiescence (R354): no tick, nothing held, nothing more from the DMA environment, and not FATAL. -/
def Quiescent (s : State) : Prop :=
  s.sender = .idle ∧ s.held = [] ∧ s.life ≠ .fatal ∧
    match s.cfg.dmaEnv with
    | .free => ∀ w, Turn.issue (.word w) ∈ s.agenda → isDmaWord w = false
    | .lockstep => s.dmaArmed = false

end Sys2Proof.Machine
end

