-- ==== Sys2Proof/Certificates/Slice0/Obligations.lean ====
section
/-! DEFINITION. What the provers are asked: statements read from the numbered rules of spec/, over every state and every
configuration. `t = { s with … }` says what an operation writes and that nothing else changes. -/

open Sys2Proof Sys2Proof.Machine

/-! ### Encoding -/

/-- R90–R95, R99, R105: every well-formed operation decodes from its own encoding, with every operand at every value. -/
def Obligations.DecodeEncode : Prop :=
  ∀ (c : Config) (i : Instr), i.wellFormed c = true → decode c (encode i) = .instr i

/-- R105: a word that decodes to a transaction is that transaction's encoding, and the transaction is well formed. So no two
words mean one transaction. -/
def Obligations.WordHasOneMeaning : Prop :=
  ∀ (c : Config) (w : TxnWord) (i : Instr), decode c (.word w) = .instr i →
    encode i = .word w ∧ i.wellFormed c = true

/-- R92–R95: words written out from the encodings. -/
def Obligations.SpecWordsDecode : Prop :=
  ∀ c : Config, c.S = 4 →
    decode c (.word 0x10000000) = .instr .init ∧ decode c (.word 0x20000000) = .instr .start
      ∧ decode c (.word 0x30000000) = .instr .tick ∧ decode c (.word 0x40000000) = .instr .rstream
      ∧ decode c (.word 0x50000003) = .instr (.evt .adc1 .second)
      ∧ decode c (.word 0x68071234) = .instr (.dmawr .adc1 7 0x1234)
      ∧ decode c (.word 0x60080000) = .illegal .indexRange
      ∧ decode c (.word 0x70000009) = .instr (.rdstat 0x09)

/-- R96: a word whose `OP` is 0x0 or 0x8 to 0xF is answered REJECT with `err_cmd <- 1`, in every state, and nothing else
changes. -/
def Obligations.ReservedOpRejected : Prop :=
  ∀ (s : State) (w : TxnWord) (rest : List Turn),
    s.agenda = .issue (.word w) :: rest →
    (w.extractLsb' 28 4 = 0 ∨ 8 ≤ (w.extractLsb' 28 4).toNat) →
    step s = .next { s with
      agenda := rest
      errCmd := true
      history := s.history ++ [.txn w (.reject .reservedOp)] }

/-- R92–R95, R97: a word with a defined `OP` and a bit set that its rule requires to be 0, or a DMAWR whose `IDX` is `2·S` or
more, is answered REJECT before any check of the lifecycle state. A foreground word is so answered where it is not held (R275). -/
def Obligations.IllegalOperandsRejected : Prop :=
  ∀ (s : State) (w : TxnWord) (rest : List Turn), s.agenda = .issue (.word w) :: rest →
    let op := w.extractLsb' 28 4
    let rejected (reason : RejectReason) : Prop :=
      step s = .next { s with
        agenda := rest
        errCmd := true
        history := s.history ++ [.txn w (.reject reason)] }
    ((op = 1 ∨ op = 2 ∨ op = 3 ∨ op = 4) → w.extractLsb' 0 28 ≠ 0 → holding s = false → rejected .nonzeroReservedBits)
    ∧ (op = 5 → w.extractLsb' 2 26 ≠ 0 → rejected .nonzeroReservedBits)
    ∧ (op = 6 → 2 * s.cfg.S ≤ (w.extractLsb' 16 11).toNat → rejected .indexRange)
    ∧ (op = 7 → w.extractLsb' 8 20 ≠ 0 → rejected .nonzeroReservedBits)

/-! ### Steps -/

/-- A turn that presents a code which decodes to `i` is `exec i` with the turn used up (log 2). -/
def Obligations.StepRunsDecoded : Prop :=
  ∀ (s : State) (c : Code) (i : Instr) (rest : List Turn),
    s.agenda = .issue c :: rest → decode s.cfg c = .instr i → step s = exec i { s with agenda := rest }

/-- R321, R340, and log 2, log 14: with no turn left nothing changes, and a code that labels no transition is refused by name. -/
def Obligations.StepOtherwise : Prop :=
  (∀ s : State, s.agenda = [] → step s = .next s)
    ∧ (∀ (s : State) (code : BitVec 8) (x : Args) (rest : List Turn),
        s.agenda = .issue (.label code x) :: rest → (code.toNat < 0x81 ∨ 0x88 < code.toNat) →
        step s = .refused (.noSuchLabel code))

/-- R275: while `life` is READY or RUNNING and a tick is in progress, a word whose `OP` is 0x1 to 0x4, legal or not, is not
answered: it waits. -/
def Obligations.ForegroundWordHeld : Prop :=
  ∀ (s : State) (w : TxnWord) (rest : List Turn),
    s.agenda = .issue (.word w) :: rest →
    (1 ≤ (w.extractLsb' 28 4).toNat ∧ (w.extractLsb' 28 4).toNat ≤ 4) →
    (s.life = .ready ∨ s.life = .running) → s.sender ≠ .idle →
    step s = .next { s with agenda := rest, held := s.held ++ [w] }

/-- R275: a waiting word stays while the hold lasts, and is then decoded and admitted as if it were presented now. -/
def Obligations.HeldWordResumes : Prop :=
  (∀ (s : State) (rest : List Turn), s.agenda = .resume :: rest → (holding s = true ∨ s.held = []) →
      step s = .next { s with agenda := rest })
    ∧ (∀ (s : State) (w : TxnWord) (ws : List TxnWord) (rest : List Turn),
        s.agenda = .resume :: rest → s.held = w :: ws → holding s = false →
        step s = step { s with agenda := .issue (.word w) :: rest, held := ws })

/-! ### Reset -/

/-- R39: what reset leaves. Of `wf`, the slots and the buffers, which R39 leaves unspecified, nothing is said. -/
def Obligations.ResetState : Prop :=
  State.reset.life = .off ∧ State.reset.fatalCause = .none ∧ State.reset.errCmd = false
    ∧ State.reset.dropLatch = 0
    ∧ (∀ a h, State.reset.pending.get a h = false)
    ∧ State.reset.nextSampleIdx = 0 ∧ State.reset.qRead = 0 ∧ State.reset.qWrite = 0
    ∧ State.reset.packetSequence = 0 ∧ State.reset.streamIndex = 0 ∧ State.reset.pcb = none
    ∧ State.reset.sender = .idle ∧ State.reset.dmaArmed = false ∧ State.reset.dmaPos = 0
    ∧ State.reset.history = []

/-- R307, R340: power-on reset, from every state (FATAL too), sets every field to its POR value and keeps the parameters;
the unspecified contents are unspecified anew (log 7). -/
def Obligations.PowerOnResets : Prop :=
  ∀ (s : State) (rest : List Turn), s.agenda = .powerOn :: rest →
    ∃ t, step s = .next t
      ∧ t.life = .off ∧ t.fatalCause = .none ∧ t.errCmd = false ∧ t.dropLatch = 0
      ∧ (∀ a h, t.pending.get a h = false)
      ∧ t.nextSampleIdx = 0 ∧ t.qRead = 0 ∧ t.qWrite = 0 ∧ t.packetSequence = 0 ∧ t.streamIndex = 0
      ∧ t.pcb = none ∧ t.sender = .idle ∧ t.dmaArmed = false ∧ t.dmaPos = 0 ∧ t.history = []
      ∧ t.cfg = s.cfg ∧ t.agenda = rest ∧ t.oracle = s.oracle
      ∧ (∀ a i, readSample a i t = Config.porSample (s.epoch + 1) a i)
      ∧ (∀ k, readSlot k t = Config.porSlot (s.epoch + 1) k)

/-! ### Lifecycle and status -/

/-- R271: INIT in OFF clears the pairing state, the latch and the sample index, and answers ACK; outside OFF it is answered
REJECT (where it is not held, R275). -/
def Obligations.InitPerforms : Prop :=
  ∀ s : State,
    (s.life = .off →
      exec .init s = .next { s with
        pending := { adc0First := false, adc1First := false, adc0Second := false, adc1Second := false }
        dropLatch := 0
        nextSampleIdx := 0
        life := .ready
        history := s.history ++ [.txn 0x10000000 .ack] })
    ∧ (s.life ≠ .off → holding s = false →
      exec .init s = .next { s with
        errCmd := true, history := s.history ++ [.txn 0x10000000 (.reject .state)] })

/-- R272: START in READY with no tick in progress and all three calls answered true: RUNNING, and under LOCKSTEP the
environment armed at position 0. -/
def Obligations.StartRuns : Prop :=
  ∀ s : State, s.life = .ready → s.sender = .idle →
    answerAt s 0 = true → answerAt s 1 = true → answerAt s 2 = true →
    exec .start s = .next { s with
      life := .running
      dmaArmed := if s.cfg.dmaEnv = .lockstep then true else s.dmaArmed
      dmaPos := if s.cfg.dmaEnv = .lockstep then 0 else s.dmaPos
      oracle := s.oracle.answered 3
      history := s.history ++
        [.host (.dmaStart .adc0) (.bool true), .host (.dmaStart .adc1) (.bool true), .host .timerStart (.bool true),
          .txn 0x20000000 .ack] }

/-- R272, R302, R305: START's first failing call decides the cause; the later calls are not made; it answers FAIL. -/
def Obligations.StartFails : Prop :=
  ∀ s : State, s.life = .ready → s.sender = .idle →
    (answerAt s 0 = false →
      exec .start s = .next { s with
        life := .fatal
        fatalCause := .startAdc0Dma
        oracle := s.oracle.answered 1
        history := s.history ++
          [.host (.dmaStart .adc0) (.bool false), .fatal .startAdc0Dma, .txn 0x20000000 .fail] })
    ∧ (answerAt s 0 = true → answerAt s 1 = false →
      exec .start s = .next { s with
        life := .fatal
        fatalCause := .startAdc1Dma
        oracle := s.oracle.answered 2
        history := s.history ++
          [.host (.dmaStart .adc0) (.bool true), .host (.dmaStart .adc1) (.bool false), .fatal .startAdc1Dma,
            .txn 0x20000000 .fail] })
    ∧ (answerAt s 0 = true → answerAt s 1 = true → answerAt s 2 = false →
      exec .start s = .next { s with
        life := .fatal
        fatalCause := .startTimer
        oracle := s.oracle.answered 3
        history := s.history ++
          [.host (.dmaStart .adc0) (.bool true), .host (.dmaStart .adc1) (.bool true), .host .timerStart (.bool false),
            .fatal .startTimer, .txn 0x20000000 .fail] })

/-- R270: the REJECT entries of the admission table, each with `err_cmd <- 1` and nothing else. -/
def Obligations.AdmissionRejects : Prop :=
  ∀ s : State, holding s = false →
    (s.life ≠ .off → exec .init s = .next { s with
      errCmd := true, history := s.history ++ [.txn 0x10000000 (.reject .state)] })
    ∧ (s.life ≠ .ready → exec .start s = .next { s with
      errCmd := true, history := s.history ++ [.txn 0x20000000 (.reject .state)] })
    ∧ ((s.life = .off ∨ s.life = .fatal) → exec .tick s = .next { s with
      errCmd := true, history := s.history ++ [.txn 0x30000000 (.reject .state)] })
    ∧ ((s.life = .off ∨ s.life = .fatal) → exec .rstream s = .next { s with
      errCmd := true, history := s.history ++ [.txn 0x40000000 (.reject .state)] })

/-- R38, R273: RDSTAT answers DATA with the register's value, in every state, and changes nothing. The registers of one field
or parameter, by number. -/
def Obligations.RdstatReads : Prop :=
  ∀ s : State,
    let answers (reg : BitVec 8) (v : BitVec 32) : Prop :=
      exec (.rdstat reg) s = .next { s with history := s.history ++ [.txn (0x70000000 ||| reg.setWidth 32) (.data v)] }
    answers 0x00 (match s.life with | .off => 0 | .ready => 1 | .running => 2 | .fatal => 3)
    ∧ answers 0x01 (match s.fatalCause with
        | .none => 0 | .initBadArgs => 1 | .startAdc0Dma => 2 | .startAdc1Dma => 3 | .startTimer => 4
        | .pcbNewFail => 5 | .pcbConnectFail => 6)
    ∧ answers 0x02 (if s.errCmd then 1 else 0)
    ∧ answers 0x03 (s.dropLatch.setWidth 32)
    ∧ answers 0x05 (s.nextSampleIdx.extractLsb' 0 32) ∧ answers 0x06 (s.nextSampleIdx.extractLsb' 32 32)
    ∧ answers 0x07 s.qRead ∧ answers 0x08 s.qWrite
    ∧ answers 0x0A s.packetSequence
    ∧ answers 0x0B (s.streamIndex.extractLsb' 0 32) ∧ answers 0x0C (s.streamIndex.extractLsb' 32 32)
    ∧ answers 0x0D (if s.pcb = none then 0 else 1)
    ∧ answers 0x0E (match s.sender with | .idle => 0 | .draining => 1 | .sending => 2)
    ∧ answers 0x11 (BitVec.ofNat 32 s.cfg.Q) ∧ answers 0x13 s.cfg.destIp ∧ answers 0x14 (s.cfg.destPort.setWidth 32)

/-- R38, R195: the packed registers, bit by bit: PENDING, Q_COUNT (where the indexes are in their domain, R191), CONFIG0 and
CONFIG2. -/
def Obligations.RdstatPacks : Prop :=
  ∀ s : State,
    (∃ v : BitVec 32, exec (.rdstat 0x04) s = .next { s with history := s.history ++ [.txn 0x70000004 (.data v)] }
      ∧ v.getLsbD 0 = s.pending.get .adc0 .first ∧ v.getLsbD 1 = s.pending.get .adc1 .first
      ∧ v.getLsbD 2 = s.pending.get .adc0 .second ∧ v.getLsbD 3 = s.pending.get .adc1 .second
      ∧ v.extractLsb' 4 28 = 0)
    ∧ (s.qRead.toNat < modulus s.cfg → s.qWrite.toNat < modulus s.cfg →
      ∃ v : BitVec 32, exec (.rdstat 0x09) s = .next { s with history := s.history ++ [.txn 0x70000009 (.data v)] }
        ∧ (s.qRead.toNat + v.toNat) % modulus s.cfg = s.qWrite.toNat ∧ v.toNat < modulus s.cfg)
    ∧ (∃ v : BitVec 32, exec (.rdstat 0x10) s = .next { s with history := s.history ++ [.txn 0x70000010 (.data v)] }
      ∧ v.extractLsb' 0 16 = BitVec.ofNat 16 s.cfg.S ∧ v.extractLsb' 16 8 = (2 : BitVec 8)
      ∧ v.extractLsb' 24 8 = (if s.cfg.sampleBits = .bits8 then 8 else 16 : BitVec 8))
    ∧ (∃ v : BitVec 32, exec (.rdstat 0x12) s = .next { s with history := s.history ++ [.txn 0x70000012 (.data v)] }
      ∧ (v.getLsbD 0 = true ↔ s.cfg.queueFullRule = .moduloReserveOne)
      ∧ (v.getLsbD 1 = true ↔ s.cfg.indexOnQueueFull = .hold)
      ∧ (v.getLsbD 2 = true ↔ s.cfg.wireIndexSource = .stream)
      ∧ (v.getLsbD 3 = true ↔ s.cfg.seqAdvance = .onSuccess)
      ∧ (v.getLsbD 4 = true ↔ s.cfg.dmaEnv = .lockstep) ∧ v.extractLsb' 5 27 = 0)

/-- R273: a reserved register number, 0x0F or 0x15 to 0xFF, is answered REJECT with `err_cmd <- 1`. -/
def Obligations.RdstatReservedRejected : Prop :=
  ∀ (s : State) (reg : BitVec 8), (reg = 0x0F ∨ 0x15 ≤ reg.toNat) →
    exec (.rdstat reg) s = .next { s with
      errCmd := true, history := s.history ++ [.txn (0x70000000 ||| reg.setWidth 32) (.reject .reservedReg)] }

/-- R305: FATAL entry writes `life` and `fatal_cause` and records the cause; every earlier write stays. -/
def Obligations.FatalEntry : Prop :=
  ∀ (s : State) (cause : FatalCause),
    exec (.fatal cause) s = .next { s with
      life := .fatal, fatalCause := cause, history := s.history ++ [.fatal cause] }

/-- R306: in FATAL, whatever turn the spec's agents take short of a power-on reset, the block stays in FATAL with the same
cause, and only buffers, `err_cmd`, the history and the agents' own inputs can change. -/
def Obligations.FatalIsHalted : Prop :=
  ∀ s t : State, s.life = .fatal → Lawful s → s.agenda.head? ≠ some .powerOn → step s = .next t →
    t = { s with
      buf0 := t.buf0
      buf1 := t.buf1
      errCmd := t.errCmd
      history := t.history
      agenda := s.agenda.tail
      held := t.held }

/-- R274: the only transitions of `life`, whatever turn the spec's agents take. -/
def Obligations.LifeTransitions : Prop :=
  ∀ s t : State, Lawful s → step s = .next t →
    t.life = s.life
      ∨ (s.life = .off ∧ t.life = .ready)
      ∨ (s.life = .ready ∧ t.life = .running)
      ∨ ((s.life = .ready ∨ s.life = .running) ∧ t.life = .fatal ∧ t.fatalCause.isRaised = true)
      ∨ (t.life = .off ∧ s.agenda.head? = some .powerOn)

/-! ### Capture -/

/-- R134: DMAWR with `IDX < 2·S`, in every lifecycle state: that one element is written, every other element and slot reads as
before, and nothing but `buf[A]` and the history changes. With `IDX` of `2·S` or more it is answered REJECT and nothing is
written. -/
def Obligations.DmawrWrites : Prop :=
  ∀ (s : State) (a : Adc) (idx : BitVec 11) (val : Sample),
    (idx.toNat < 2 * s.cfg.S →
      ∃ t, exec (.dmawr a idx val) s = .next t
        ∧ readSample a idx.toNat t = val
        ∧ (∀ a' i, (a', i) ≠ (a, idx.toNat) → readSample a' i t = readSample a' i s)
        ∧ SameSlots s t
        ∧ t = { s with
            buf0 := t.buf0
            buf1 := t.buf1
            history := s.history ++ [.txn (dmawrWord a idx val) .ack] })
    ∧ (2 * s.cfg.S ≤ idx.toNat →
      exec (.dmawr a idx val) s = .next { s with
        errCmd := true
        history := s.history ++ [.txn (dmawrWord a idx val) (.reject .indexRange)] })

/-- R135: in READY and RUNNING an EVT does what MARK does and answers ACK; in OFF and FATAL it is answered IGNORED and nothing
changes. -/
def Obligations.EvtMarks : Prop :=
  ∀ (s : State) (a : Adc) (h : Half),
    ((s.life = .ready ∨ s.life = .running) →
      ∃ t, exec (.mark a h) s = .next t
        ∧ exec (.evt a h) s = .next { t with history := t.history ++ [.txn (evtWord a h) .ack] })
    ∧ ((s.life = .off ∨ s.life = .fatal) →
      exec (.evt a h) s = .next { s with history := s.history ++ [.txn (evtWord a h) .ignored] })

/-- R136: MARK of a half the other ADC has not signalled: the bit is set, and if it was set already the latch is raised and
RESIGNAL recorded. Nothing is packed. -/
def Obligations.MarkSignals : Prop :=
  ∀ (s : State) (a b : Adc) (h : Half), b ≠ a → s.pending.get b h = false →
    ∃ t, exec (.mark a h) s = .next t
      ∧ t.pending.get a h = true
      ∧ (∀ a' h', (a', h') ≠ (a, h) → t.pending.get a' h' = s.pending.get a' h')
      ∧ t = { s with
          pending := t.pending
          dropLatch := if s.pending.get a h then s.dropLatch ||| 1 else s.dropLatch
          history := if s.pending.get a h then s.history ++ [.drop .resignal] else s.history }

/-- R136: MARK that completes a pair: both bits of the half are cleared, the other half's are not touched, and then the half is
packed. -/
def Obligations.MarkCompletesPair : Prop :=
  ∀ (s : State) (a b : Adc) (h : Half), b ≠ a → s.pending.get b h = true → s.pending.get a h = false →
    ∃ u, exec (.mark a h) s = exec (.pack h) u
      ∧ (∀ a', u.pending.get a' h = false)
      ∧ (∀ a' h', h' ≠ h → u.pending.get a' h' = s.pending.get a' h')
      ∧ u = { s with pending := u.pending }

/-- R312: where neither ADC has signalled half `h`, the two ADCs' events for it may come in either order: the second reaches the
same state, and the state between differs. -/
def Obligations.SimultaneousEventsCommute : Prop :=
  ∀ (s : State) (h : Half), s.pending.get .adc0 h = false → s.pending.get .adc1 h = false →
    ∃ u v t, exec (.mark .adc0 h) s = .next u ∧ exec (.mark .adc1 h) s = .next v ∧ u ≠ v
      ∧ exec (.mark .adc1 h) u = .next t ∧ exec (.mark .adc0 h) v = .next t

/-- R133: an enabled SMPL writes one element of each buffer at `dma_pos` and moves the position on, wrapping at `2·S`. Every
other element reads as before, and only the producer's fields change besides. -/
def Obligations.SmplWrites : Prop :=
  ∀ (s : State) (v0 v1 : Sample),
    s.cfg.dmaEnv = .lockstep → s.dmaArmed = true → s.life = .running → s.dmaPos < 2 * s.cfg.S →
    ∃ t, exec (.smpl v0 v1) s = .next t
      ∧ readSample .adc0 s.dmaPos t = v0 ∧ readSample .adc1 s.dmaPos t = v1
      ∧ (∀ a i, i ≠ s.dmaPos → readSample a i t = readSample a i s)
      ∧ t.dmaPos = (if s.dmaPos + 1 = 2 * s.cfg.S then 0 else s.dmaPos + 1)
      ∧ OnlyProducerWrites { s with buf0 := t.buf0, buf1 := t.buf1, dmaPos := t.dmaPos } t

/-- R133: the events of an enabled SMPL, at the half-transfer (`dma_pos + 1 = S`) and at the wrap (`dma_pos + 1 = 2·S`): ADC0's
MARK and then ADC1's, on the state with the two elements written; between them there is no event. -/
def Obligations.SmplEvents : Prop :=
  ∀ (s : State) (v0 v1 : Sample),
    s.cfg.dmaEnv = .lockstep → s.dmaArmed = true → s.life = .running → s.dmaPos < 2 * s.cfg.S →
    let written := writeSample .adc1 s.dmaPos v1 (writeSample .adc0 s.dmaPos v0 s)
    (s.dmaPos + 1 = s.cfg.S →
      ∃ u v, exec (.mark .adc0 .first) written = .next u ∧ exec (.mark .adc1 .first) u = .next v
        ∧ exec (.smpl v0 v1) s = .next { v with dmaPos := s.cfg.S })
    ∧ (s.dmaPos + 1 = 2 * s.cfg.S →
      ∃ u v, exec (.mark .adc0 .second) written = .next u ∧ exec (.mark .adc1 .second) u = .next v
        ∧ exec (.smpl v0 v1) s = .next { v with dmaPos := 0 })
    ∧ (s.dmaPos + 1 ≠ s.cfg.S → s.dmaPos + 1 ≠ 2 * s.cfg.S →
      exec (.smpl v0 v1) s = .next { written with dmaPos := s.dmaPos + 1 })

/-! ### Pack -/

/-- R160, R162: PACK into a queue with room. Time-step `i` of the half, channel 0 before channel 1, makes samples `2·i` and
`2·i + 1`; the index is the one before its advance; the latch is sampled into `flags` and cleared; the frame is stored in its slot
and published; every other slot and every buffer element reads as before. -/
def Obligations.PackPublishes : Prop :=
  ∀ (s : State) (h : Half), queueFull s = false →
    ∃ (t : State) (f : Frame), exec (.pack h) s = .next t
      ∧ f.samples.length = 2 * s.cfg.S
      ∧ (∀ i, i < s.cfg.S →
          f.samples[2 * i]? = some (storedSample s.cfg (readSample .adc0 ((if h = .first then 0 else s.cfg.S) + i) s))
          ∧ f.samples[2 * i + 1]?
            = some (storedSample s.cfg (readSample .adc1 ((if h = .first then 0 else s.cfg.S) + i) s)))
      ∧ f.sampleCount = BitVec.ofNat 32 (2 * s.cfg.S) ∧ f.firstSampleIdx = s.nextSampleIdx ∧ f.flags = s.dropLatch
      ∧ readSlot (s.qWrite.toNat % s.cfg.Q) t = f
      ∧ (∀ k, k ≠ s.qWrite.toNat % s.cfg.Q → readSlot k t = readSlot k s)
      ∧ SameBuffers s t
      ∧ t = { s with
          nextSampleIdx := s.nextSampleIdx + BitVec.ofNat 64 s.cfg.S
          dropLatch := 0
          slots := t.slots
          qWrite := adv s.cfg s.qWrite
          history := s.history ++ [.published (s.qWrite.toNat % s.cfg.Q) s.nextSampleIdx s.dropLatch] }

/-- R160: PACK on a full queue discards the half: the latch is raised, the index advances under ADVANCE only, and no slot,
`q_write` or anything else is written. -/
def Obligations.PackDiscards : Prop :=
  ∀ (s : State) (h : Half), queueFull s = true →
    exec (.pack h) s = .next { s with
      dropLatch := s.dropLatch ||| 1
      nextSampleIdx :=
        if s.cfg.indexOnQueueFull = .advance then s.nextSampleIdx + BitVec.ofNat 64 s.cfg.S else s.nextSampleIdx
      history := s.history ++ [.drop .queueFull] }

/-- R165: PACK into a queue with room stores `2·S` words, channel `c` of time-step `i` at `2·i + c`. At 8 bits that word is below
0x100 and equals `sample & 0xFF`, and at 16 bits it is the sample unchanged, of the sample at that place: element `h·S + i` of
`buf[c]`. -/
def Obligations.PackTruncates : Prop :=
  ∀ (s : State) (h : Half), queueFull s = false →
    ∃ t, exec (.pack h) s = .next t
      ∧ (readSlot (s.qWrite.toNat % s.cfg.Q) t).samples.length = 2 * s.cfg.S
      ∧ ∀ (i : Nat) (c : Adc), i < s.cfg.S →
          let sample := readSample c ((if h = .first then 0 else s.cfg.S) + i) s
          ∃ w, (readSlot (s.qWrite.toNat % s.cfg.Q) t).samples[2 * i + (if c = .adc0 then 0 else 1)]? = some w
            ∧ (s.cfg.sampleBits = .bits8 → w.toNat < 0x100 ∧ w = sample &&& 0xFF)
            ∧ (s.cfg.sampleBits = .bits16 → w = sample)

/-! ### Queue -/

/-- R196: PUSH when full returns FAIL and writes nothing; else the frame goes to slot `q_write mod Q` and `q_write` advances, and
every other slot reads as before. The publication is recorded (R50, log 13). -/
def Obligations.PushStores : Prop :=
  ∀ (s : State) (f : Frame),
    (queueFull s = true → exec (.push f) s = .next s)
    ∧ (queueFull s = false →
      ∃ t, exec (.push f) s = .next t
        ∧ readSlot (s.qWrite.toNat % s.cfg.Q) t = f
        ∧ (∀ k, k ≠ s.qWrite.toNat % s.cfg.Q → readSlot k t = readSlot k s)
        ∧ SameBuffers s t
        ∧ t = { s with
            slots := t.slots
            qWrite := BitVec.ofNat 32 ((s.qWrite.toNat + 1) % modulus s.cfg)
            history := s.history ++ [.published (s.qWrite.toNat % s.cfg.Q) f.firstSampleIdx f.flags] })

/-- R194, R195: under both rules the queue is full exactly when its occupancy is the capacity, and empty exactly when it is 0. -/
def Obligations.FullIsCapacity : Prop :=
  ∀ (c : Config) (r w : BitVec 32), r.toNat < modulus c → w.toNat < modulus c →
    (full c r w = true ↔ count c r w = capacity c) ∧ (empty r w = true ↔ count c r w = 0)

/-- R198, R199: the ring is a FIFO. From indexes in their domain, a PUSH with room puts its frame behind those in the queue, and
an enabled POP of a queue that is not empty takes the oldest into `wf`. -/
def Obligations.RingIsFifo : Prop :=
  ∀ s : State, s.qRead.toNat < modulus s.cfg → s.qWrite.toNat < modulus s.cfg →
    count s.cfg s.qRead s.qWrite ≤ capacity s.cfg →
    (∀ f, queueFull s = false →
      ∃ t, exec (.push f) s = .next t ∧ queueContents t = queueContents s ++ [f])
    ∧ (popEnabled s = true → s.qRead ≠ s.qWrite →
      ∃ t, exec .pop s = .next t ∧ queueContents s = t.wf :: queueContents t)

/-- R201: when `Q` is a power of two, COUNT_Q agrees with 32-bit free-running counters: the same full and empty verdicts, the same
occupancy, and the same slots, and advancing keeps the two in step. -/
def Obligations.FreeRunningCounters : Prop :=
  ∀ (c : Config) (k : Nat) (fr fw r w : BitVec 32), c.queueFullRule = .countQ → c.Q = 2 ^ k →
    (fw - fr).toNat ≤ c.Q → r.toNat = fr.toNat % (2 * c.Q) → w.toNat = fw.toNat % (2 * c.Q) →
    (full c r w = true ↔ (fw - fr).toNat = c.Q) ∧ (empty r w = true ↔ fr = fw)
      ∧ count c r w = (fw - fr).toNat
      ∧ slotIndex c r = fr.toNat % c.Q ∧ slotIndex c w = fw.toNat % c.Q
      ∧ (adv c r).toNat = (fr + 1).toNat % (2 * c.Q) ∧ (adv c w).toNat = (fw + 1).toNat % (2 * c.Q)

/-! ### Sender -/

/-- R220, R275: TICK in READY or RUNNING begins a tick and answers ACK; while a tick is in progress it is held, not answered; in OFF
and FATAL it is answered REJECT. That a held word is appended to `held` is the model's choice (log 8). -/
def Obligations.TickStarts : Prop :=
  ∀ s : State,
    ((s.life = .ready ∨ s.life = .running) → s.sender = .idle →
      exec .tick s = .next { s with sender := .draining, history := s.history ++ [.txn 0x30000000 .ack] })
    ∧ ((s.life = .ready ∨ s.life = .running) → s.sender ≠ .idle →
      exec .tick s = .next { s with held := s.held ++ [0x30000000] })
    ∧ ((s.life = .off ∨ s.life = .fatal) →
      exec .tick s = .next { s with
        errCmd := true, history := s.history ++ [.txn 0x30000000 (.reject .state)] })

/-- R197, R221: the consumer's POP step: on an empty queue the tick ends; else the oldest slot's frame goes to `wf`, `q_read`
advances, and SEND is next. -/
def Obligations.PopTakes : Prop :=
  ∀ s : State, s.sender = .draining → (s.life = .ready ∨ s.life = .running) →
    (s.qRead = s.qWrite → exec .pop s = .next { s with sender := .idle })
    ∧ (s.qRead ≠ s.qWrite →
      exec .pop s = .next { s with
        wf := readSlot (s.qRead.toNat % s.cfg.Q) s
        qRead := BitVec.ofNat 32 ((s.qRead.toNat + 1) % modulus s.cfg)
        sender := .sending })

/-- R222, R224–R230: SEND of a valid frame with its buffer allocated, whatever `udp_send` answers: the datagram is the header and
payload formed with the sequence number before its advance; the counters advance when it is formed (ON_FORM) or accepted
(ON_SUCCESS); a refusal raises the latch. -/
def Obligations.SendForms : Prop :=
  ∀ (s : State) (p : Handle),
    s.sender = .sending → (s.life = .ready ∨ s.life = .running) →
    0 < s.wf.sampleCount.toNat → s.wf.sampleCount.toNat % 2 = 0 → s.pcb = some p → answerAt s 0 = true →
    let n := 20 + s.wf.sampleCount.toNat * bytesPerSample s.cfg
    let idx := if s.cfg.wireIndexSource = .frame then s.wf.firstSampleIdx else s.streamIndex
    let bytes := header s.cfg s.packetSequence idx s.wf ++ payload s.cfg s.wf
    let advances := s.cfg.seqAdvance = .onForm ∨ answerAt s 1 = true
    exec .send s = .next { s with
      sender := .draining
      packetSequence := if advances then s.packetSequence + 1 else s.packetSequence
      streamIndex := if advances then s.streamIndex + BitVec.ofNat 64 s.cfg.S else s.streamIndex
      dropLatch := if answerAt s 1 then s.dropLatch else s.dropLatch ||| 1
      oracle := s.oracle.answered 2
      history := s.history ++
        [.host (.alloc n) (.bool true), .host (.send p bytes) (.bool (answerAt s 1)), .host (.free n) .none,
          .datagram bytes (answerAt s 1)] ++ (if answerAt s 1 then [] else [.drop .sendFail]) }

/-- R223, R224: SEND discards the popped frame, raises the latch and forms nothing where the frame or the PCB is not valid
(INVALID_FRAME), and where the buffer is refused (ALLOC_FAIL). -/
def Obligations.SendDiscards : Prop :=
  ∀ s : State, s.sender = .sending → (s.life = .ready ∨ s.life = .running) →
    ((s.wf.sampleCount = 0 ∨ s.wf.sampleCount.toNat % 2 ≠ 0 ∨ s.pcb = none) →
      exec .send s = .next { s with
        sender := .draining
        dropLatch := s.dropLatch ||| 1
        history := s.history ++ [.drop .invalidFrame] })
    ∧ (s.wf.sampleCount ≠ 0 → s.wf.sampleCount.toNat % 2 = 0 → s.pcb ≠ none → answerAt s 0 = false →
      exec .send s = .next { s with
        sender := .draining
        dropLatch := s.dropLatch ||| 1
        oracle := s.oracle.answered 1
        history := s.history ++
          [.host (.alloc (20 + s.wf.sampleCount.toNat * bytesPerSample s.cfg)) (.bool false), .drop .allocFail] })

/-- R131–R133, R221, R222, and log 9 (the model's choice): where SMPL, POP or SEND is not enabled it has no step: nothing
changes. -/
def Obligations.StepsNotEnabled : Prop :=
  (∀ (s : State) (v0 v1 : Sample),
      (s.cfg.dmaEnv = .free ∨ s.dmaArmed = false ∨ s.life ≠ .running) → exec (.smpl v0 v1) s = .next s)
    ∧ (∀ s : State, (s.sender ≠ .draining ∨ s.life = .off ∨ s.life = .fatal) → exec .pop s = .next s)
    ∧ (∀ s : State, (s.sender ≠ .sending ∨ s.life = .off ∨ s.life = .fatal) → exec .send s = .next s)

/-- R160, R222: of the frames PACK builds, SEND discards one as invalid only for want of a PCB: with a PCB and a sound frame it
never records INVALID_FRAME. -/
def Obligations.OnlyNullPcbIsInvalid : Prop :=
  ∀ s t : State, s.wf.wellFormed s.cfg = true → s.pcb ≠ none → exec .send s = .next t →
    ∃ new, t.history = s.history ++ new ∧ Event.drop .invalidFrame ∉ new

/-- R9, R102, R224: every datagram a SEND of a sound frame submits has DATAGRAM_SIZE bytes, and that is the length asked of
ALLOC. -/
def Obligations.DatagramsHaveOneLength : Prop :=
  ∀ s t : State, s.wf.wellFormed s.cfg = true → exec .send s = .next t →
    ∃ new, t.history = s.history ++ new ∧
      ∀ bytes ok, Event.datagram bytes ok ∈ new →
        bytes.length = 20 + s.cfg.S * 2 * (if s.cfg.sampleBits = .bits8 then 1 else 2)
          ∧ Event.host (.alloc bytes.length) (.bool true) ∈ new

/-- R100–R103: parsing a datagram formed from a sound frame gives every header field back, and the samples bit-exactly at 16 bits
and `sample & 0xFF` at 8 bits. -/
def Obligations.DatagramParses : Prop :=
  ∀ (c : Config) (seq : BitVec 32) (idx : BitVec 64) (f : Frame), f.wellFormed c = true →
    let width := c.sampleBits
    parse width (header c seq idx f ++ payload c f) =
      { packetSeq := seq.toNat
        firstSampleIdx := idx.toNat
        channels := 2
        samplesPerCh := c.S
        flags := f.flags.toNat
        sampleBits := if width = .bits8 then 8 else 16
        samples := f.samples.map fun w => if width = .bits8 then (w &&& 0xFF).toNat else w.toNat }

/-- R231: LRAISE sets bit 0 of the latch and records the drop. -/
def Obligations.LraiseRaises : Prop :=
  ∀ (s : State) (k : DropKind),
    exec (.lraise k) s = .next { s with
      dropLatch := s.dropLatch ||| 0x0001, history := s.history ++ [.drop k] }

/-- R232: RSTREAM with the new PCB `h` connected: the counters are zero, the old PCB is released, `h` takes its place. The queue,
the latch, the sample index and the pending map are untouched. -/
def Obligations.RstreamConnects : Prop :=
  ∀ (s : State) (h : Handle), (s.life = .ready ∨ s.life = .running) → s.sender = .idle →
    handleNow s = some h → answerAt s 0 = true →
    exec .rstream s = .next { s with
      packetSequence := 0
      streamIndex := 0
      pcb := some h
      oracle := (s.oracle.answered 1).handled
      history := s.history
        ++ releaseEvents s.pcb
        ++ [.host .udpNew (.handle (some h)), .host (.udpConnect h s.cfg.destIp s.cfg.destPort) (.bool true),
          .txn 0x40000000 .ack] }

/-- R232, R302, R305: RSTREAM's two failures: each enters FATAL after the writes before it, leaves no PCB, and answers FAIL. -/
def Obligations.RstreamFails : Prop :=
  ∀ s : State, (s.life = .ready ∨ s.life = .running) → s.sender = .idle →
    (handleNow s = none →
      exec .rstream s = .next { s with
        packetSequence := 0
        streamIndex := 0
        pcb := none
        life := .fatal
        fatalCause := .pcbNewFail
        oracle := s.oracle.handled
        history := s.history
          ++ releaseEvents s.pcb
          ++ [.host .udpNew (.handle none), .fatal .pcbNewFail, .txn 0x40000000 .fail] })
    ∧ (∀ h, handleNow s = some h → answerAt s 0 = false →
      exec .rstream s = .next { s with
        packetSequence := 0
        streamIndex := 0
        pcb := none
        life := .fatal
        fatalCause := .pcbConnectFail
        oracle := (s.oracle.answered 1).handled
        history := s.history
          ++ releaseEvents s.pcb
          ++ [.host .udpNew (.handle (some h)), .host (.udpConnect h s.cfg.destIp s.cfg.destPort) (.bool false),
            .host (.pcbRelease h) .none, .fatal .pcbConnectFail, .txn 0x40000000 .fail] })

/-! ### Responses and the history -/

/-- R98: every transaction gets exactly one response, at the end of its step: a word that is not held adds one `Txn` event with
that word, and it is the last. -/
def Obligations.OneResponse : Prop :=
  ∀ (s : State) (w : TxnWord) (rest : List Turn), s.agenda = .issue (.word w) :: rest →
    ((opField w).toNat = 0 ∨ 4 < (opField w).toNat ∨ holding s = false) →
    ∃ t new r, step s = .next t ∧ t.history = s.history ++ new ++ [.txn w r]
      ∧ ∀ w' r', Event.txn w' r' ∉ new

/-- R50: no operation reads the history, and each only appends to it: with any other history the operation does the same and
appends the same events. -/
def Obligations.HistoryIsNotRead : Prop :=
  ∀ (i : Instr) (s t : State) (h : List Event), exec i s = .next t →
    ∃ new, t.history = s.history ++ new
      ∧ exec i { s with history := h } = .next { t with history := h ++ new }

/-- R24: `err_cmd` is sticky, a step that answers REJECT sets it, and no operation sets it but with a REJECT. -/
def Obligations.ErrCmdIsSticky : Prop :=
  ∀ s t : State, s.agenda.head? ≠ some .powerOn → step s = .next t →
    (s.errCmd = true → t.errCmd = true)
      ∧ (∀ new w r, t.history = s.history ++ new ++ [.txn w (.reject r)] → t.errCmd = true)
      ∧ (s.errCmd = false → t.errCmd = true →
          ∃ w r, t = { s with
            errCmd := true
            history := s.history ++ [.txn w (.reject r)]
            agenda := s.agenda.tail
            held := t.held })

/-! ### Ownership -/

/-- R40: EVT, MARK, PACK and PUSH write only the producer's fields, and with them every buffer element reads as before. -/
def Obligations.ProducerOwnership : Prop :=
  ∀ (i : Instr) (s t : State),
    ((∃ a h, i = .evt a h) ∨ (∃ a h, i = .mark a h) ∨ (∃ h, i = .pack h) ∨ (∃ f, i = .push f)) →
    exec i s = .next t → OnlyProducerWrites s t ∧ SameBuffers s t

/-- R40, R166: POP and SEND write only the consumer's fields, and with them every slot and every buffer element reads as before. -/
def Obligations.ConsumerOwnership : Prop :=
  ∀ (i : Instr) (s t : State), (i = .pop ∨ i = .send) → exec i s = .next t →
    OnlyConsumerWrites s t ∧ SameSlots s t ∧ SameBuffers s t

/-- R42: no step writes a parameter, whatever its turn. -/
def Obligations.ParametersAreFixed : Prop :=
  ∀ s t : State, step s = .next t → t.cfg = s.cfg

/-! ### Invariants -/

/-- The invariant of the reachable states holds at reset. -/
def Obligations.InvReset : Prop := Invariant State.reset

/-- R25, R37, R60–R62, R140, R191, R198: every step keeps the invariant, from every state that meets it, whatever its turn. -/
def Obligations.StepKeepsInv : Prop :=
  ∀ s t : State, Invariant s → step s = .next t → Invariant t

/-- R133, R140: under LOCKSTEP no half is pending at a step boundary, whatever turn the spec's agents take, and no event finds its
bit set: short of power-on, which empties the history, none of the events a step adds is a RESIGNAL drop. -/
def Obligations.StepKeepsLockstepClear : Prop :=
  ∀ s t : State, s.cfg.dmaEnv = .lockstep → Lawful s → (∀ a h, s.pending.get a h = false) → step s = .next t →
    (∀ a h, t.pending.get a h = false)
      ∧ (s.agenda.head? ≠ some .powerOn →
          ∃ new, t.history = s.history ++ new ∧ Event.drop .resignal ∉ new)

/-- R31, R160, R198: the frames in the queue and in `wf` stay sound, whatever turn the spec's agents take. -/
def Obligations.StepKeepsFramesSound : Prop :=
  ∀ s t : State, Invariant s → Lawful s → FramesSound s → step s = .next t → FramesSound t ∧ Lawful t

/-- At reset the frames are sound, the agents lawful, and the history laws hold. -/
def Obligations.LawsReset : Prop :=
  FramesSound State.reset ∧ Lawful State.reset ∧ FlagsLaw State.reset ∧ IndexLaw State.reset ∧ SequenceLaw State.reset

/-- R164: every frame is published with `flags` 1 exactly when a raise took effect since the publication before it, and 0
otherwise; every step keeps this. -/
def Obligations.StepKeepsFlagsLaw : Prop :=
  ∀ s t : State, Lawful s → FlagsLaw s → step s = .next t → FlagsLaw t

/-- R163: every frame is published with the index that counts `S` for each frame published before it and, under ADVANCE, `S` for
each half lost to a full queue; every step keeps this. -/
def Obligations.StepKeepsIndexLaw : Prop :=
  ∀ s t : State, Lawful s → IndexLaw s → step s = .next t → IndexLaw t

/-- R227, R232, R233: every datagram carries the number of datagrams formed (under ON_SUCCESS: accepted) since the last stream
reset; every step keeps this. -/
def Obligations.StepKeepsSequenceLaw : Prop :=
  ∀ s t : State, Lawful s → SequenceLaw s → step s = .next t → SequenceLaw t
end

