-- ==== Sys2Proof/Laws/State.lean ====
section
/-! SUPPORT. What each update of the state leaves in each field: one lemma per field per update, true by unfolding it once, so
that no later proof unfolds a record update. -/

namespace Sys2Proof.Machine

variable (s : State)

/-! ### `record` (R50) -/

@[simp] theorem record_cfg (e : Event) : (record e s).cfg = s.cfg := rfl
@[simp] theorem record_life (e : Event) : (record e s).life = s.life := rfl
@[simp] theorem record_fatalCause (e : Event) : (record e s).fatalCause = s.fatalCause := rfl
@[simp] theorem record_errCmd (e : Event) : (record e s).errCmd = s.errCmd := rfl
@[simp] theorem record_dropLatch (e : Event) : (record e s).dropLatch = s.dropLatch := rfl
@[simp] theorem record_pending (e : Event) : (record e s).pending = s.pending := rfl
@[simp] theorem record_nextSampleIdx (e : Event) : (record e s).nextSampleIdx = s.nextSampleIdx := rfl
@[simp] theorem record_buf0 (e : Event) : (record e s).buf0 = s.buf0 := rfl
@[simp] theorem record_buf1 (e : Event) : (record e s).buf1 = s.buf1 := rfl
@[simp] theorem record_qRead (e : Event) : (record e s).qRead = s.qRead := rfl
@[simp] theorem record_qWrite (e : Event) : (record e s).qWrite = s.qWrite := rfl
@[simp] theorem record_slots (e : Event) : (record e s).slots = s.slots := rfl
@[simp] theorem record_packetSequence (e : Event) : (record e s).packetSequence = s.packetSequence := rfl
@[simp] theorem record_streamIndex (e : Event) : (record e s).streamIndex = s.streamIndex := rfl
@[simp] theorem record_pcb (e : Event) : (record e s).pcb = s.pcb := rfl
@[simp] theorem record_sender (e : Event) : (record e s).sender = s.sender := rfl
@[simp] theorem record_wf (e : Event) : (record e s).wf = s.wf := rfl
@[simp] theorem record_dmaArmed (e : Event) : (record e s).dmaArmed = s.dmaArmed := rfl
@[simp] theorem record_dmaPos (e : Event) : (record e s).dmaPos = s.dmaPos := rfl
@[simp] theorem record_history (e : Event) : (record e s).history = s.history ++ [e] := rfl
@[simp] theorem record_held (e : Event) : (record e s).held = s.held := rfl
@[simp] theorem record_agenda (e : Event) : (record e s).agenda = s.agenda := rfl
@[simp] theorem record_oracle (e : Event) : (record e s).oracle = s.oracle := rfl
@[simp] theorem record_epoch (e : Event) : (record e s).epoch = s.epoch := rfl

/-! ### `respond` (R98) -/

@[simp] theorem respond_cfg (w : TxnWord) (r : Response) : (respond w r s).cfg = s.cfg := rfl
@[simp] theorem respond_life (w : TxnWord) (r : Response) : (respond w r s).life = s.life := rfl
@[simp] theorem respond_fatalCause (w : TxnWord) (r : Response) : (respond w r s).fatalCause = s.fatalCause := rfl
@[simp] theorem respond_errCmd (w : TxnWord) (r : Response) : (respond w r s).errCmd = s.errCmd := rfl
@[simp] theorem respond_dropLatch (w : TxnWord) (r : Response) : (respond w r s).dropLatch = s.dropLatch := rfl
@[simp] theorem respond_pending (w : TxnWord) (r : Response) : (respond w r s).pending = s.pending := rfl
@[simp] theorem respond_nextSampleIdx (w : TxnWord) (r : Response) :
    (respond w r s).nextSampleIdx = s.nextSampleIdx := rfl
@[simp] theorem respond_buf0 (w : TxnWord) (r : Response) : (respond w r s).buf0 = s.buf0 := rfl
@[simp] theorem respond_buf1 (w : TxnWord) (r : Response) : (respond w r s).buf1 = s.buf1 := rfl
@[simp] theorem respond_qRead (w : TxnWord) (r : Response) : (respond w r s).qRead = s.qRead := rfl
@[simp] theorem respond_qWrite (w : TxnWord) (r : Response) : (respond w r s).qWrite = s.qWrite := rfl
@[simp] theorem respond_slots (w : TxnWord) (r : Response) : (respond w r s).slots = s.slots := rfl
@[simp] theorem respond_packetSequence (w : TxnWord) (r : Response) :
    (respond w r s).packetSequence = s.packetSequence := rfl
@[simp] theorem respond_streamIndex (w : TxnWord) (r : Response) : (respond w r s).streamIndex = s.streamIndex := rfl
@[simp] theorem respond_pcb (w : TxnWord) (r : Response) : (respond w r s).pcb = s.pcb := rfl
@[simp] theorem respond_sender (w : TxnWord) (r : Response) : (respond w r s).sender = s.sender := rfl
@[simp] theorem respond_wf (w : TxnWord) (r : Response) : (respond w r s).wf = s.wf := rfl
@[simp] theorem respond_dmaArmed (w : TxnWord) (r : Response) : (respond w r s).dmaArmed = s.dmaArmed := rfl
@[simp] theorem respond_dmaPos (w : TxnWord) (r : Response) : (respond w r s).dmaPos = s.dmaPos := rfl
@[simp] theorem respond_history (w : TxnWord) (r : Response) : (respond w r s).history = s.history ++ [.txn w r] := rfl
@[simp] theorem respond_held (w : TxnWord) (r : Response) : (respond w r s).held = s.held := rfl
@[simp] theorem respond_agenda (w : TxnWord) (r : Response) : (respond w r s).agenda = s.agenda := rfl
@[simp] theorem respond_oracle (w : TxnWord) (r : Response) : (respond w r s).oracle = s.oracle := rfl
@[simp] theorem respond_epoch (w : TxnWord) (r : Response) : (respond w r s).epoch = s.epoch := rfl

/-! ### `reject` (R96, R97) -/

@[simp] theorem reject_cfg (w : TxnWord) (r : RejectReason) : (reject w r s).cfg = s.cfg := rfl
@[simp] theorem reject_life (w : TxnWord) (r : RejectReason) : (reject w r s).life = s.life := rfl
@[simp] theorem reject_fatalCause (w : TxnWord) (r : RejectReason) : (reject w r s).fatalCause = s.fatalCause := rfl
@[simp] theorem reject_errCmd (w : TxnWord) (r : RejectReason) : (reject w r s).errCmd = true := rfl
@[simp] theorem reject_dropLatch (w : TxnWord) (r : RejectReason) : (reject w r s).dropLatch = s.dropLatch := rfl
@[simp] theorem reject_pending (w : TxnWord) (r : RejectReason) : (reject w r s).pending = s.pending := rfl
@[simp] theorem reject_nextSampleIdx (w : TxnWord) (r : RejectReason) :
    (reject w r s).nextSampleIdx = s.nextSampleIdx := rfl
@[simp] theorem reject_buf0 (w : TxnWord) (r : RejectReason) : (reject w r s).buf0 = s.buf0 := rfl
@[simp] theorem reject_buf1 (w : TxnWord) (r : RejectReason) : (reject w r s).buf1 = s.buf1 := rfl
@[simp] theorem reject_qRead (w : TxnWord) (r : RejectReason) : (reject w r s).qRead = s.qRead := rfl
@[simp] theorem reject_qWrite (w : TxnWord) (r : RejectReason) : (reject w r s).qWrite = s.qWrite := rfl
@[simp] theorem reject_slots (w : TxnWord) (r : RejectReason) : (reject w r s).slots = s.slots := rfl
@[simp] theorem reject_packetSequence (w : TxnWord) (r : RejectReason) :
    (reject w r s).packetSequence = s.packetSequence := rfl
@[simp] theorem reject_streamIndex (w : TxnWord) (r : RejectReason) : (reject w r s).streamIndex = s.streamIndex := rfl
@[simp] theorem reject_pcb (w : TxnWord) (r : RejectReason) : (reject w r s).pcb = s.pcb := rfl
@[simp] theorem reject_sender (w : TxnWord) (r : RejectReason) : (reject w r s).sender = s.sender := rfl
@[simp] theorem reject_wf (w : TxnWord) (r : RejectReason) : (reject w r s).wf = s.wf := rfl
@[simp] theorem reject_dmaArmed (w : TxnWord) (r : RejectReason) : (reject w r s).dmaArmed = s.dmaArmed := rfl
@[simp] theorem reject_dmaPos (w : TxnWord) (r : RejectReason) : (reject w r s).dmaPos = s.dmaPos := rfl
@[simp] theorem reject_history (w : TxnWord) (r : RejectReason) :
    (reject w r s).history = s.history ++ [.txn w (.reject r)] := rfl
@[simp] theorem reject_held (w : TxnWord) (r : RejectReason) : (reject w r s).held = s.held := rfl
@[simp] theorem reject_agenda (w : TxnWord) (r : RejectReason) : (reject w r s).agenda = s.agenda := rfl
@[simp] theorem reject_oracle (w : TxnWord) (r : RejectReason) : (reject w r s).oracle = s.oracle := rfl
@[simp] theorem reject_epoch (w : TxnWord) (r : RejectReason) : (reject w r s).epoch = s.epoch := rfl

/-! ### `raiseDrop` (R231) -/

@[simp] theorem raiseDrop_cfg (k : DropKind) : (raiseDrop k s).cfg = s.cfg := rfl
@[simp] theorem raiseDrop_life (k : DropKind) : (raiseDrop k s).life = s.life := rfl
@[simp] theorem raiseDrop_fatalCause (k : DropKind) : (raiseDrop k s).fatalCause = s.fatalCause := rfl
@[simp] theorem raiseDrop_errCmd (k : DropKind) : (raiseDrop k s).errCmd = s.errCmd := rfl
@[simp] theorem raiseDrop_dropLatch (k : DropKind) : (raiseDrop k s).dropLatch = s.dropLatch ||| 1 := rfl
@[simp] theorem raiseDrop_pending (k : DropKind) : (raiseDrop k s).pending = s.pending := rfl
@[simp] theorem raiseDrop_nextSampleIdx (k : DropKind) : (raiseDrop k s).nextSampleIdx = s.nextSampleIdx := rfl
@[simp] theorem raiseDrop_buf0 (k : DropKind) : (raiseDrop k s).buf0 = s.buf0 := rfl
@[simp] theorem raiseDrop_buf1 (k : DropKind) : (raiseDrop k s).buf1 = s.buf1 := rfl
@[simp] theorem raiseDrop_qRead (k : DropKind) : (raiseDrop k s).qRead = s.qRead := rfl
@[simp] theorem raiseDrop_qWrite (k : DropKind) : (raiseDrop k s).qWrite = s.qWrite := rfl
@[simp] theorem raiseDrop_slots (k : DropKind) : (raiseDrop k s).slots = s.slots := rfl
@[simp] theorem raiseDrop_packetSequence (k : DropKind) : (raiseDrop k s).packetSequence = s.packetSequence := rfl
@[simp] theorem raiseDrop_streamIndex (k : DropKind) : (raiseDrop k s).streamIndex = s.streamIndex := rfl
@[simp] theorem raiseDrop_pcb (k : DropKind) : (raiseDrop k s).pcb = s.pcb := rfl
@[simp] theorem raiseDrop_sender (k : DropKind) : (raiseDrop k s).sender = s.sender := rfl
@[simp] theorem raiseDrop_wf (k : DropKind) : (raiseDrop k s).wf = s.wf := rfl
@[simp] theorem raiseDrop_dmaArmed (k : DropKind) : (raiseDrop k s).dmaArmed = s.dmaArmed := rfl
@[simp] theorem raiseDrop_dmaPos (k : DropKind) : (raiseDrop k s).dmaPos = s.dmaPos := rfl
@[simp] theorem raiseDrop_history (k : DropKind) : (raiseDrop k s).history = s.history ++ [.drop k] := rfl
@[simp] theorem raiseDrop_held (k : DropKind) : (raiseDrop k s).held = s.held := rfl
@[simp] theorem raiseDrop_agenda (k : DropKind) : (raiseDrop k s).agenda = s.agenda := rfl
@[simp] theorem raiseDrop_oracle (k : DropKind) : (raiseDrop k s).oracle = s.oracle := rfl
@[simp] theorem raiseDrop_epoch (k : DropKind) : (raiseDrop k s).epoch = s.epoch := rfl

/-! ### `raiseFatal` (R305) -/

@[simp] theorem raiseFatal_cfg (c : FatalCause) : (raiseFatal c s).cfg = s.cfg := rfl
@[simp] theorem raiseFatal_life (c : FatalCause) : (raiseFatal c s).life = .fatal := rfl
@[simp] theorem raiseFatal_fatalCause (c : FatalCause) : (raiseFatal c s).fatalCause = c := rfl
@[simp] theorem raiseFatal_errCmd (c : FatalCause) : (raiseFatal c s).errCmd = s.errCmd := rfl
@[simp] theorem raiseFatal_dropLatch (c : FatalCause) : (raiseFatal c s).dropLatch = s.dropLatch := rfl
@[simp] theorem raiseFatal_pending (c : FatalCause) : (raiseFatal c s).pending = s.pending := rfl
@[simp] theorem raiseFatal_nextSampleIdx (c : FatalCause) : (raiseFatal c s).nextSampleIdx = s.nextSampleIdx := rfl
@[simp] theorem raiseFatal_buf0 (c : FatalCause) : (raiseFatal c s).buf0 = s.buf0 := rfl
@[simp] theorem raiseFatal_buf1 (c : FatalCause) : (raiseFatal c s).buf1 = s.buf1 := rfl
@[simp] theorem raiseFatal_qRead (c : FatalCause) : (raiseFatal c s).qRead = s.qRead := rfl
@[simp] theorem raiseFatal_qWrite (c : FatalCause) : (raiseFatal c s).qWrite = s.qWrite := rfl
@[simp] theorem raiseFatal_slots (c : FatalCause) : (raiseFatal c s).slots = s.slots := rfl
@[simp] theorem raiseFatal_packetSequence (c : FatalCause) : (raiseFatal c s).packetSequence = s.packetSequence := rfl
@[simp] theorem raiseFatal_streamIndex (c : FatalCause) : (raiseFatal c s).streamIndex = s.streamIndex := rfl
@[simp] theorem raiseFatal_pcb (c : FatalCause) : (raiseFatal c s).pcb = s.pcb := rfl
@[simp] theorem raiseFatal_sender (c : FatalCause) : (raiseFatal c s).sender = s.sender := rfl
@[simp] theorem raiseFatal_wf (c : FatalCause) : (raiseFatal c s).wf = s.wf := rfl
@[simp] theorem raiseFatal_dmaArmed (c : FatalCause) : (raiseFatal c s).dmaArmed = s.dmaArmed := rfl
@[simp] theorem raiseFatal_dmaPos (c : FatalCause) : (raiseFatal c s).dmaPos = s.dmaPos := rfl
@[simp] theorem raiseFatal_history (c : FatalCause) : (raiseFatal c s).history = s.history ++ [.fatal c] := rfl
@[simp] theorem raiseFatal_held (c : FatalCause) : (raiseFatal c s).held = s.held := rfl
@[simp] theorem raiseFatal_agenda (c : FatalCause) : (raiseFatal c s).agenda = s.agenda := rfl
@[simp] theorem raiseFatal_oracle (c : FatalCause) : (raiseFatal c s).oracle = s.oracle := rfl
@[simp] theorem raiseFatal_epoch (c : FatalCause) : (raiseFatal c s).epoch = s.epoch := rfl

/-! ### `callBool` (R318) -/

@[simp] theorem callBool_cfg (c : HostCall) : (callBool c s).cfg = s.cfg := rfl
@[simp] theorem callBool_life (c : HostCall) : (callBool c s).life = s.life := rfl
@[simp] theorem callBool_fatalCause (c : HostCall) : (callBool c s).fatalCause = s.fatalCause := rfl
@[simp] theorem callBool_errCmd (c : HostCall) : (callBool c s).errCmd = s.errCmd := rfl
@[simp] theorem callBool_dropLatch (c : HostCall) : (callBool c s).dropLatch = s.dropLatch := rfl
@[simp] theorem callBool_pending (c : HostCall) : (callBool c s).pending = s.pending := rfl
@[simp] theorem callBool_nextSampleIdx (c : HostCall) : (callBool c s).nextSampleIdx = s.nextSampleIdx := rfl
@[simp] theorem callBool_buf0 (c : HostCall) : (callBool c s).buf0 = s.buf0 := rfl
@[simp] theorem callBool_buf1 (c : HostCall) : (callBool c s).buf1 = s.buf1 := rfl
@[simp] theorem callBool_qRead (c : HostCall) : (callBool c s).qRead = s.qRead := rfl
@[simp] theorem callBool_qWrite (c : HostCall) : (callBool c s).qWrite = s.qWrite := rfl
@[simp] theorem callBool_slots (c : HostCall) : (callBool c s).slots = s.slots := rfl
@[simp] theorem callBool_packetSequence (c : HostCall) : (callBool c s).packetSequence = s.packetSequence := rfl
@[simp] theorem callBool_streamIndex (c : HostCall) : (callBool c s).streamIndex = s.streamIndex := rfl
@[simp] theorem callBool_pcb (c : HostCall) : (callBool c s).pcb = s.pcb := rfl
@[simp] theorem callBool_sender (c : HostCall) : (callBool c s).sender = s.sender := rfl
@[simp] theorem callBool_wf (c : HostCall) : (callBool c s).wf = s.wf := rfl
@[simp] theorem callBool_dmaArmed (c : HostCall) : (callBool c s).dmaArmed = s.dmaArmed := rfl
@[simp] theorem callBool_dmaPos (c : HostCall) : (callBool c s).dmaPos = s.dmaPos := rfl
@[simp] theorem callBool_history (c : HostCall) :
    (callBool c s).history = s.history ++ [.host c (.bool (answerNow s))] := rfl
@[simp] theorem callBool_held (c : HostCall) : (callBool c s).held = s.held := rfl
@[simp] theorem callBool_agenda (c : HostCall) : (callBool c s).agenda = s.agenda := rfl
@[simp] theorem callBool_oracle (c : HostCall) :
    (callBool c s).oracle = { s.oracle with answers := s.oracle.answers.tail, asked := s.oracle.asked + 1 } := rfl
@[simp] theorem callBool_epoch (c : HostCall) : (callBool c s).epoch = s.epoch := rfl

/-! ### `callUdpNew` (R318) -/

@[simp] theorem callUdpNew_cfg : (callUdpNew s).cfg = s.cfg := rfl
@[simp] theorem callUdpNew_life : (callUdpNew s).life = s.life := rfl
@[simp] theorem callUdpNew_fatalCause : (callUdpNew s).fatalCause = s.fatalCause := rfl
@[simp] theorem callUdpNew_errCmd : (callUdpNew s).errCmd = s.errCmd := rfl
@[simp] theorem callUdpNew_dropLatch : (callUdpNew s).dropLatch = s.dropLatch := rfl
@[simp] theorem callUdpNew_pending : (callUdpNew s).pending = s.pending := rfl
@[simp] theorem callUdpNew_nextSampleIdx : (callUdpNew s).nextSampleIdx = s.nextSampleIdx := rfl
@[simp] theorem callUdpNew_buf0 : (callUdpNew s).buf0 = s.buf0 := rfl
@[simp] theorem callUdpNew_buf1 : (callUdpNew s).buf1 = s.buf1 := rfl
@[simp] theorem callUdpNew_qRead : (callUdpNew s).qRead = s.qRead := rfl
@[simp] theorem callUdpNew_qWrite : (callUdpNew s).qWrite = s.qWrite := rfl
@[simp] theorem callUdpNew_slots : (callUdpNew s).slots = s.slots := rfl
@[simp] theorem callUdpNew_packetSequence : (callUdpNew s).packetSequence = s.packetSequence := rfl
@[simp] theorem callUdpNew_streamIndex : (callUdpNew s).streamIndex = s.streamIndex := rfl
@[simp] theorem callUdpNew_pcb : (callUdpNew s).pcb = s.pcb := rfl
@[simp] theorem callUdpNew_sender : (callUdpNew s).sender = s.sender := rfl
@[simp] theorem callUdpNew_wf : (callUdpNew s).wf = s.wf := rfl
@[simp] theorem callUdpNew_dmaArmed : (callUdpNew s).dmaArmed = s.dmaArmed := rfl
@[simp] theorem callUdpNew_dmaPos : (callUdpNew s).dmaPos = s.dmaPos := rfl
@[simp] theorem callUdpNew_history :
    (callUdpNew s).history = s.history ++ [.host .udpNew (.handle (handleNow s))] := rfl
@[simp] theorem callUdpNew_held : (callUdpNew s).held = s.held := rfl
@[simp] theorem callUdpNew_agenda : (callUdpNew s).agenda = s.agenda := rfl
@[simp] theorem callUdpNew_oracle :
    (callUdpNew s).oracle = { s.oracle with handles := s.oracle.handles.tail, handlesAsked := s.oracle.handlesAsked + 1 } := rfl
@[simp] theorem callUdpNew_epoch : (callUdpNew s).epoch = s.epoch := rfl

/-! ### `callNone` (R318) -/

@[simp] theorem callNone_cfg (c : HostCall) : (callNone c s).cfg = s.cfg := rfl
@[simp] theorem callNone_life (c : HostCall) : (callNone c s).life = s.life := rfl
@[simp] theorem callNone_fatalCause (c : HostCall) : (callNone c s).fatalCause = s.fatalCause := rfl
@[simp] theorem callNone_errCmd (c : HostCall) : (callNone c s).errCmd = s.errCmd := rfl
@[simp] theorem callNone_dropLatch (c : HostCall) : (callNone c s).dropLatch = s.dropLatch := rfl
@[simp] theorem callNone_pending (c : HostCall) : (callNone c s).pending = s.pending := rfl
@[simp] theorem callNone_nextSampleIdx (c : HostCall) : (callNone c s).nextSampleIdx = s.nextSampleIdx := rfl
@[simp] theorem callNone_buf0 (c : HostCall) : (callNone c s).buf0 = s.buf0 := rfl
@[simp] theorem callNone_buf1 (c : HostCall) : (callNone c s).buf1 = s.buf1 := rfl
@[simp] theorem callNone_qRead (c : HostCall) : (callNone c s).qRead = s.qRead := rfl
@[simp] theorem callNone_qWrite (c : HostCall) : (callNone c s).qWrite = s.qWrite := rfl
@[simp] theorem callNone_slots (c : HostCall) : (callNone c s).slots = s.slots := rfl
@[simp] theorem callNone_packetSequence (c : HostCall) : (callNone c s).packetSequence = s.packetSequence := rfl
@[simp] theorem callNone_streamIndex (c : HostCall) : (callNone c s).streamIndex = s.streamIndex := rfl
@[simp] theorem callNone_pcb (c : HostCall) : (callNone c s).pcb = s.pcb := rfl
@[simp] theorem callNone_sender (c : HostCall) : (callNone c s).sender = s.sender := rfl
@[simp] theorem callNone_wf (c : HostCall) : (callNone c s).wf = s.wf := rfl
@[simp] theorem callNone_dmaArmed (c : HostCall) : (callNone c s).dmaArmed = s.dmaArmed := rfl
@[simp] theorem callNone_dmaPos (c : HostCall) : (callNone c s).dmaPos = s.dmaPos := rfl
@[simp] theorem callNone_history (c : HostCall) : (callNone c s).history = s.history ++ [.host c .none] := rfl
@[simp] theorem callNone_held (c : HostCall) : (callNone c s).held = s.held := rfl
@[simp] theorem callNone_agenda (c : HostCall) : (callNone c s).agenda = s.agenda := rfl
@[simp] theorem callNone_oracle (c : HostCall) : (callNone c s).oracle = s.oracle := rfl
@[simp] theorem callNone_epoch (c : HostCall) : (callNone c s).epoch = s.epoch := rfl

/-! ### `hold` (R275) -/

@[simp] theorem hold_cfg (w : TxnWord) : (hold w s).cfg = s.cfg := rfl
@[simp] theorem hold_life (w : TxnWord) : (hold w s).life = s.life := rfl
@[simp] theorem hold_fatalCause (w : TxnWord) : (hold w s).fatalCause = s.fatalCause := rfl
@[simp] theorem hold_errCmd (w : TxnWord) : (hold w s).errCmd = s.errCmd := rfl
@[simp] theorem hold_dropLatch (w : TxnWord) : (hold w s).dropLatch = s.dropLatch := rfl
@[simp] theorem hold_pending (w : TxnWord) : (hold w s).pending = s.pending := rfl
@[simp] theorem hold_nextSampleIdx (w : TxnWord) : (hold w s).nextSampleIdx = s.nextSampleIdx := rfl
@[simp] theorem hold_buf0 (w : TxnWord) : (hold w s).buf0 = s.buf0 := rfl
@[simp] theorem hold_buf1 (w : TxnWord) : (hold w s).buf1 = s.buf1 := rfl
@[simp] theorem hold_qRead (w : TxnWord) : (hold w s).qRead = s.qRead := rfl
@[simp] theorem hold_qWrite (w : TxnWord) : (hold w s).qWrite = s.qWrite := rfl
@[simp] theorem hold_slots (w : TxnWord) : (hold w s).slots = s.slots := rfl
@[simp] theorem hold_packetSequence (w : TxnWord) : (hold w s).packetSequence = s.packetSequence := rfl
@[simp] theorem hold_streamIndex (w : TxnWord) : (hold w s).streamIndex = s.streamIndex := rfl
@[simp] theorem hold_pcb (w : TxnWord) : (hold w s).pcb = s.pcb := rfl
@[simp] theorem hold_sender (w : TxnWord) : (hold w s).sender = s.sender := rfl
@[simp] theorem hold_wf (w : TxnWord) : (hold w s).wf = s.wf := rfl
@[simp] theorem hold_dmaArmed (w : TxnWord) : (hold w s).dmaArmed = s.dmaArmed := rfl
@[simp] theorem hold_dmaPos (w : TxnWord) : (hold w s).dmaPos = s.dmaPos := rfl
@[simp] theorem hold_history (w : TxnWord) : (hold w s).history = s.history := rfl
@[simp] theorem hold_held (w : TxnWord) : (hold w s).held = s.held ++ [w] := rfl
@[simp] theorem hold_agenda (w : TxnWord) : (hold w s).agenda = s.agenda := rfl
@[simp] theorem hold_oracle (w : TxnWord) : (hold w s).oracle = s.oracle := rfl
@[simp] theorem hold_epoch (w : TxnWord) : (hold w s).epoch = s.epoch := rfl

/-! ### `clearLatch` (R75) -/

@[simp] theorem clearLatch_cfg : (clearLatch s).cfg = s.cfg := rfl
@[simp] theorem clearLatch_life : (clearLatch s).life = s.life := rfl
@[simp] theorem clearLatch_fatalCause : (clearLatch s).fatalCause = s.fatalCause := rfl
@[simp] theorem clearLatch_errCmd : (clearLatch s).errCmd = s.errCmd := rfl
@[simp] theorem clearLatch_dropLatch : (clearLatch s).dropLatch = 0 := rfl
@[simp] theorem clearLatch_pending : (clearLatch s).pending = s.pending := rfl
@[simp] theorem clearLatch_nextSampleIdx : (clearLatch s).nextSampleIdx = s.nextSampleIdx := rfl
@[simp] theorem clearLatch_buf0 : (clearLatch s).buf0 = s.buf0 := rfl
@[simp] theorem clearLatch_buf1 : (clearLatch s).buf1 = s.buf1 := rfl
@[simp] theorem clearLatch_qRead : (clearLatch s).qRead = s.qRead := rfl
@[simp] theorem clearLatch_qWrite : (clearLatch s).qWrite = s.qWrite := rfl
@[simp] theorem clearLatch_slots : (clearLatch s).slots = s.slots := rfl
@[simp] theorem clearLatch_packetSequence : (clearLatch s).packetSequence = s.packetSequence := rfl
@[simp] theorem clearLatch_streamIndex : (clearLatch s).streamIndex = s.streamIndex := rfl
@[simp] theorem clearLatch_pcb : (clearLatch s).pcb = s.pcb := rfl
@[simp] theorem clearLatch_sender : (clearLatch s).sender = s.sender := rfl
@[simp] theorem clearLatch_wf : (clearLatch s).wf = s.wf := rfl
@[simp] theorem clearLatch_dmaArmed : (clearLatch s).dmaArmed = s.dmaArmed := rfl
@[simp] theorem clearLatch_dmaPos : (clearLatch s).dmaPos = s.dmaPos := rfl
@[simp] theorem clearLatch_history : (clearLatch s).history = s.history := rfl
@[simp] theorem clearLatch_held : (clearLatch s).held = s.held := rfl
@[simp] theorem clearLatch_agenda : (clearLatch s).agenda = s.agenda := rfl
@[simp] theorem clearLatch_oracle : (clearLatch s).oracle = s.oracle := rfl
@[simp] theorem clearLatch_epoch : (clearLatch s).epoch = s.epoch := rfl

/-! ### `setPending` (R136) -/

@[simp] theorem setPending_cfg (a : Adc) (h : Half) : (setPending a h s).cfg = s.cfg := rfl
@[simp] theorem setPending_life (a : Adc) (h : Half) : (setPending a h s).life = s.life := rfl
@[simp] theorem setPending_fatalCause (a : Adc) (h : Half) : (setPending a h s).fatalCause = s.fatalCause := rfl
@[simp] theorem setPending_errCmd (a : Adc) (h : Half) : (setPending a h s).errCmd = s.errCmd := rfl
@[simp] theorem setPending_dropLatch (a : Adc) (h : Half) : (setPending a h s).dropLatch = s.dropLatch := rfl
@[simp] theorem setPending_pending (a : Adc) (h : Half) : (setPending a h s).pending = s.pending.set a h := rfl
@[simp] theorem setPending_nextSampleIdx (a : Adc) (h : Half) :
    (setPending a h s).nextSampleIdx = s.nextSampleIdx := rfl
@[simp] theorem setPending_buf0 (a : Adc) (h : Half) : (setPending a h s).buf0 = s.buf0 := rfl
@[simp] theorem setPending_buf1 (a : Adc) (h : Half) : (setPending a h s).buf1 = s.buf1 := rfl
@[simp] theorem setPending_qRead (a : Adc) (h : Half) : (setPending a h s).qRead = s.qRead := rfl
@[simp] theorem setPending_qWrite (a : Adc) (h : Half) : (setPending a h s).qWrite = s.qWrite := rfl
@[simp] theorem setPending_slots (a : Adc) (h : Half) : (setPending a h s).slots = s.slots := rfl
@[simp] theorem setPending_packetSequence (a : Adc) (h : Half) :
    (setPending a h s).packetSequence = s.packetSequence := rfl
@[simp] theorem setPending_streamIndex (a : Adc) (h : Half) : (setPending a h s).streamIndex = s.streamIndex := rfl
@[simp] theorem setPending_pcb (a : Adc) (h : Half) : (setPending a h s).pcb = s.pcb := rfl
@[simp] theorem setPending_sender (a : Adc) (h : Half) : (setPending a h s).sender = s.sender := rfl
@[simp] theorem setPending_wf (a : Adc) (h : Half) : (setPending a h s).wf = s.wf := rfl
@[simp] theorem setPending_dmaArmed (a : Adc) (h : Half) : (setPending a h s).dmaArmed = s.dmaArmed := rfl
@[simp] theorem setPending_dmaPos (a : Adc) (h : Half) : (setPending a h s).dmaPos = s.dmaPos := rfl
@[simp] theorem setPending_history (a : Adc) (h : Half) : (setPending a h s).history = s.history := rfl
@[simp] theorem setPending_held (a : Adc) (h : Half) : (setPending a h s).held = s.held := rfl
@[simp] theorem setPending_agenda (a : Adc) (h : Half) : (setPending a h s).agenda = s.agenda := rfl
@[simp] theorem setPending_oracle (a : Adc) (h : Half) : (setPending a h s).oracle = s.oracle := rfl
@[simp] theorem setPending_epoch (a : Adc) (h : Half) : (setPending a h s).epoch = s.epoch := rfl

/-! ### `advanceIndex` (R160) -/

@[simp] theorem advanceIndex_cfg : (advanceIndex s).cfg = s.cfg := rfl
@[simp] theorem advanceIndex_life : (advanceIndex s).life = s.life := rfl
@[simp] theorem advanceIndex_fatalCause : (advanceIndex s).fatalCause = s.fatalCause := rfl
@[simp] theorem advanceIndex_errCmd : (advanceIndex s).errCmd = s.errCmd := rfl
@[simp] theorem advanceIndex_dropLatch : (advanceIndex s).dropLatch = s.dropLatch := rfl
@[simp] theorem advanceIndex_pending : (advanceIndex s).pending = s.pending := rfl
@[simp] theorem advanceIndex_nextSampleIdx :
    (advanceIndex s).nextSampleIdx = s.nextSampleIdx + BitVec.ofNat 64 s.cfg.S := rfl
@[simp] theorem advanceIndex_buf0 : (advanceIndex s).buf0 = s.buf0 := rfl
@[simp] theorem advanceIndex_buf1 : (advanceIndex s).buf1 = s.buf1 := rfl
@[simp] theorem advanceIndex_qRead : (advanceIndex s).qRead = s.qRead := rfl
@[simp] theorem advanceIndex_qWrite : (advanceIndex s).qWrite = s.qWrite := rfl
@[simp] theorem advanceIndex_slots : (advanceIndex s).slots = s.slots := rfl
@[simp] theorem advanceIndex_packetSequence : (advanceIndex s).packetSequence = s.packetSequence := rfl
@[simp] theorem advanceIndex_streamIndex : (advanceIndex s).streamIndex = s.streamIndex := rfl
@[simp] theorem advanceIndex_pcb : (advanceIndex s).pcb = s.pcb := rfl
@[simp] theorem advanceIndex_sender : (advanceIndex s).sender = s.sender := rfl
@[simp] theorem advanceIndex_wf : (advanceIndex s).wf = s.wf := rfl
@[simp] theorem advanceIndex_dmaArmed : (advanceIndex s).dmaArmed = s.dmaArmed := rfl
@[simp] theorem advanceIndex_dmaPos : (advanceIndex s).dmaPos = s.dmaPos := rfl
@[simp] theorem advanceIndex_history : (advanceIndex s).history = s.history := rfl
@[simp] theorem advanceIndex_held : (advanceIndex s).held = s.held := rfl
@[simp] theorem advanceIndex_agenda : (advanceIndex s).agenda = s.agenda := rfl
@[simp] theorem advanceIndex_oracle : (advanceIndex s).oracle = s.oracle := rfl
@[simp] theorem advanceIndex_epoch : (advanceIndex s).epoch = s.epoch := rfl

/-! ### `writeSlot` (R62) -/

@[simp] theorem writeSlot_cfg (k : Nat) (f : Frame) : (writeSlot k f s).cfg = s.cfg := rfl
@[simp] theorem writeSlot_life (k : Nat) (f : Frame) : (writeSlot k f s).life = s.life := rfl
@[simp] theorem writeSlot_fatalCause (k : Nat) (f : Frame) : (writeSlot k f s).fatalCause = s.fatalCause := rfl
@[simp] theorem writeSlot_errCmd (k : Nat) (f : Frame) : (writeSlot k f s).errCmd = s.errCmd := rfl
@[simp] theorem writeSlot_dropLatch (k : Nat) (f : Frame) : (writeSlot k f s).dropLatch = s.dropLatch := rfl
@[simp] theorem writeSlot_pending (k : Nat) (f : Frame) : (writeSlot k f s).pending = s.pending := rfl
@[simp] theorem writeSlot_nextSampleIdx (k : Nat) (f : Frame) : (writeSlot k f s).nextSampleIdx = s.nextSampleIdx := rfl
@[simp] theorem writeSlot_buf0 (k : Nat) (f : Frame) : (writeSlot k f s).buf0 = s.buf0 := rfl
@[simp] theorem writeSlot_buf1 (k : Nat) (f : Frame) : (writeSlot k f s).buf1 = s.buf1 := rfl
@[simp] theorem writeSlot_qRead (k : Nat) (f : Frame) : (writeSlot k f s).qRead = s.qRead := rfl
@[simp] theorem writeSlot_qWrite (k : Nat) (f : Frame) : (writeSlot k f s).qWrite = s.qWrite := rfl
@[simp] theorem writeSlot_slots (k : Nat) (f : Frame) : (writeSlot k f s).slots = Memory.put s.slots k f := rfl
@[simp] theorem writeSlot_packetSequence (k : Nat) (f : Frame) :
    (writeSlot k f s).packetSequence = s.packetSequence := rfl
@[simp] theorem writeSlot_streamIndex (k : Nat) (f : Frame) : (writeSlot k f s).streamIndex = s.streamIndex := rfl
@[simp] theorem writeSlot_pcb (k : Nat) (f : Frame) : (writeSlot k f s).pcb = s.pcb := rfl
@[simp] theorem writeSlot_sender (k : Nat) (f : Frame) : (writeSlot k f s).sender = s.sender := rfl
@[simp] theorem writeSlot_wf (k : Nat) (f : Frame) : (writeSlot k f s).wf = s.wf := rfl
@[simp] theorem writeSlot_dmaArmed (k : Nat) (f : Frame) : (writeSlot k f s).dmaArmed = s.dmaArmed := rfl
@[simp] theorem writeSlot_dmaPos (k : Nat) (f : Frame) : (writeSlot k f s).dmaPos = s.dmaPos := rfl
@[simp] theorem writeSlot_history (k : Nat) (f : Frame) : (writeSlot k f s).history = s.history := rfl
@[simp] theorem writeSlot_held (k : Nat) (f : Frame) : (writeSlot k f s).held = s.held := rfl
@[simp] theorem writeSlot_agenda (k : Nat) (f : Frame) : (writeSlot k f s).agenda = s.agenda := rfl
@[simp] theorem writeSlot_oracle (k : Nat) (f : Frame) : (writeSlot k f s).oracle = s.oracle := rfl
@[simp] theorem writeSlot_epoch (k : Nat) (f : Frame) : (writeSlot k f s).epoch = s.epoch := rfl

/-! ### `enqueue` (R196) -/

@[simp] theorem enqueue_cfg (f : Frame) : (enqueue f s).cfg = s.cfg := rfl
@[simp] theorem enqueue_life (f : Frame) : (enqueue f s).life = s.life := rfl
@[simp] theorem enqueue_fatalCause (f : Frame) : (enqueue f s).fatalCause = s.fatalCause := rfl
@[simp] theorem enqueue_errCmd (f : Frame) : (enqueue f s).errCmd = s.errCmd := rfl
@[simp] theorem enqueue_dropLatch (f : Frame) : (enqueue f s).dropLatch = s.dropLatch := rfl
@[simp] theorem enqueue_pending (f : Frame) : (enqueue f s).pending = s.pending := rfl
@[simp] theorem enqueue_nextSampleIdx (f : Frame) : (enqueue f s).nextSampleIdx = s.nextSampleIdx := rfl
@[simp] theorem enqueue_buf0 (f : Frame) : (enqueue f s).buf0 = s.buf0 := rfl
@[simp] theorem enqueue_buf1 (f : Frame) : (enqueue f s).buf1 = s.buf1 := rfl
@[simp] theorem enqueue_qRead (f : Frame) : (enqueue f s).qRead = s.qRead := rfl
@[simp] theorem enqueue_qWrite (f : Frame) : (enqueue f s).qWrite = adv s.cfg s.qWrite := rfl
@[simp] theorem enqueue_slots (f : Frame) : (enqueue f s).slots = Memory.put s.slots (slotIndex s.cfg s.qWrite) f := rfl
@[simp] theorem enqueue_packetSequence (f : Frame) : (enqueue f s).packetSequence = s.packetSequence := rfl
@[simp] theorem enqueue_streamIndex (f : Frame) : (enqueue f s).streamIndex = s.streamIndex := rfl
@[simp] theorem enqueue_pcb (f : Frame) : (enqueue f s).pcb = s.pcb := rfl
@[simp] theorem enqueue_sender (f : Frame) : (enqueue f s).sender = s.sender := rfl
@[simp] theorem enqueue_wf (f : Frame) : (enqueue f s).wf = s.wf := rfl
@[simp] theorem enqueue_dmaArmed (f : Frame) : (enqueue f s).dmaArmed = s.dmaArmed := rfl
@[simp] theorem enqueue_dmaPos (f : Frame) : (enqueue f s).dmaPos = s.dmaPos := rfl
@[simp] theorem enqueue_history (f : Frame) : (enqueue f s).history = s.history := rfl
@[simp] theorem enqueue_held (f : Frame) : (enqueue f s).held = s.held := rfl
@[simp] theorem enqueue_agenda (f : Frame) : (enqueue f s).agenda = s.agenda := rfl
@[simp] theorem enqueue_oracle (f : Frame) : (enqueue f s).oracle = s.oracle := rfl
@[simp] theorem enqueue_epoch (f : Frame) : (enqueue f s).epoch = s.epoch := rfl

/-! ### `dequeue` (R197) -/

@[simp] theorem dequeue_cfg : (dequeue s).cfg = s.cfg := rfl
@[simp] theorem dequeue_life : (dequeue s).life = s.life := rfl
@[simp] theorem dequeue_fatalCause : (dequeue s).fatalCause = s.fatalCause := rfl
@[simp] theorem dequeue_errCmd : (dequeue s).errCmd = s.errCmd := rfl
@[simp] theorem dequeue_dropLatch : (dequeue s).dropLatch = s.dropLatch := rfl
@[simp] theorem dequeue_pending : (dequeue s).pending = s.pending := rfl
@[simp] theorem dequeue_nextSampleIdx : (dequeue s).nextSampleIdx = s.nextSampleIdx := rfl
@[simp] theorem dequeue_buf0 : (dequeue s).buf0 = s.buf0 := rfl
@[simp] theorem dequeue_buf1 : (dequeue s).buf1 = s.buf1 := rfl
@[simp] theorem dequeue_qRead : (dequeue s).qRead = adv s.cfg s.qRead := rfl
@[simp] theorem dequeue_qWrite : (dequeue s).qWrite = s.qWrite := rfl
@[simp] theorem dequeue_slots : (dequeue s).slots = s.slots := rfl
@[simp] theorem dequeue_packetSequence : (dequeue s).packetSequence = s.packetSequence := rfl
@[simp] theorem dequeue_streamIndex : (dequeue s).streamIndex = s.streamIndex := rfl
@[simp] theorem dequeue_pcb : (dequeue s).pcb = s.pcb := rfl
@[simp] theorem dequeue_sender : (dequeue s).sender = s.sender := rfl
@[simp] theorem dequeue_wf : (dequeue s).wf = s.wf := rfl
@[simp] theorem dequeue_dmaArmed : (dequeue s).dmaArmed = s.dmaArmed := rfl
@[simp] theorem dequeue_dmaPos : (dequeue s).dmaPos = s.dmaPos := rfl
@[simp] theorem dequeue_history : (dequeue s).history = s.history := rfl
@[simp] theorem dequeue_held : (dequeue s).held = s.held := rfl
@[simp] theorem dequeue_agenda : (dequeue s).agenda = s.agenda := rfl
@[simp] theorem dequeue_oracle : (dequeue s).oracle = s.oracle := rfl
@[simp] theorem dequeue_epoch : (dequeue s).epoch = s.epoch := rfl

/-! ### `advanceSequence` (R227) -/

@[simp] theorem advanceSequence_cfg : (advanceSequence s).cfg = s.cfg := rfl
@[simp] theorem advanceSequence_life : (advanceSequence s).life = s.life := rfl
@[simp] theorem advanceSequence_fatalCause : (advanceSequence s).fatalCause = s.fatalCause := rfl
@[simp] theorem advanceSequence_errCmd : (advanceSequence s).errCmd = s.errCmd := rfl
@[simp] theorem advanceSequence_dropLatch : (advanceSequence s).dropLatch = s.dropLatch := rfl
@[simp] theorem advanceSequence_pending : (advanceSequence s).pending = s.pending := rfl
@[simp] theorem advanceSequence_nextSampleIdx : (advanceSequence s).nextSampleIdx = s.nextSampleIdx := rfl
@[simp] theorem advanceSequence_buf0 : (advanceSequence s).buf0 = s.buf0 := rfl
@[simp] theorem advanceSequence_buf1 : (advanceSequence s).buf1 = s.buf1 := rfl
@[simp] theorem advanceSequence_qRead : (advanceSequence s).qRead = s.qRead := rfl
@[simp] theorem advanceSequence_qWrite : (advanceSequence s).qWrite = s.qWrite := rfl
@[simp] theorem advanceSequence_slots : (advanceSequence s).slots = s.slots := rfl
@[simp] theorem advanceSequence_packetSequence : (advanceSequence s).packetSequence = s.packetSequence + 1 := rfl
@[simp] theorem advanceSequence_streamIndex :
    (advanceSequence s).streamIndex = s.streamIndex + BitVec.ofNat 64 s.cfg.S := rfl
@[simp] theorem advanceSequence_pcb : (advanceSequence s).pcb = s.pcb := rfl
@[simp] theorem advanceSequence_sender : (advanceSequence s).sender = s.sender := rfl
@[simp] theorem advanceSequence_wf : (advanceSequence s).wf = s.wf := rfl
@[simp] theorem advanceSequence_dmaArmed : (advanceSequence s).dmaArmed = s.dmaArmed := rfl
@[simp] theorem advanceSequence_dmaPos : (advanceSequence s).dmaPos = s.dmaPos := rfl
@[simp] theorem advanceSequence_history : (advanceSequence s).history = s.history := rfl
@[simp] theorem advanceSequence_held : (advanceSequence s).held = s.held := rfl
@[simp] theorem advanceSequence_agenda : (advanceSequence s).agenda = s.agenda := rfl
@[simp] theorem advanceSequence_oracle : (advanceSequence s).oracle = s.oracle := rfl
@[simp] theorem advanceSequence_epoch : (advanceSequence s).epoch = s.epoch := rfl

/-! ### `writeSample` (R61) -/

@[simp] theorem writeSample_cfg (a : Adc) (i : Nat) (v : Sample) :
    (writeSample a i v s).cfg = s.cfg := by cases a <;> rfl
@[simp] theorem writeSample_life (a : Adc) (i : Nat) (v : Sample) :
    (writeSample a i v s).life = s.life := by cases a <;> rfl
@[simp] theorem writeSample_fatalCause (a : Adc) (i : Nat) (v : Sample) :
    (writeSample a i v s).fatalCause = s.fatalCause := by cases a <;> rfl
@[simp] theorem writeSample_errCmd (a : Adc) (i : Nat) (v : Sample) :
    (writeSample a i v s).errCmd = s.errCmd := by cases a <;> rfl
@[simp] theorem writeSample_dropLatch (a : Adc) (i : Nat) (v : Sample) :
    (writeSample a i v s).dropLatch = s.dropLatch := by cases a <;> rfl
@[simp] theorem writeSample_pending (a : Adc) (i : Nat) (v : Sample) :
    (writeSample a i v s).pending = s.pending := by cases a <;> rfl
@[simp] theorem writeSample_nextSampleIdx (a : Adc) (i : Nat) (v : Sample) :
    (writeSample a i v s).nextSampleIdx = s.nextSampleIdx := by cases a <;> rfl
@[simp] theorem writeSample_qRead (a : Adc) (i : Nat) (v : Sample) :
    (writeSample a i v s).qRead = s.qRead := by cases a <;> rfl
@[simp] theorem writeSample_qWrite (a : Adc) (i : Nat) (v : Sample) :
    (writeSample a i v s).qWrite = s.qWrite := by cases a <;> rfl
@[simp] theorem writeSample_slots (a : Adc) (i : Nat) (v : Sample) :
    (writeSample a i v s).slots = s.slots := by cases a <;> rfl
@[simp] theorem writeSample_packetSequence (a : Adc) (i : Nat) (v : Sample) :
    (writeSample a i v s).packetSequence = s.packetSequence := by cases a <;> rfl
@[simp] theorem writeSample_streamIndex (a : Adc) (i : Nat) (v : Sample) :
    (writeSample a i v s).streamIndex = s.streamIndex := by cases a <;> rfl
@[simp] theorem writeSample_pcb (a : Adc) (i : Nat) (v : Sample) :
    (writeSample a i v s).pcb = s.pcb := by cases a <;> rfl
@[simp] theorem writeSample_sender (a : Adc) (i : Nat) (v : Sample) :
    (writeSample a i v s).sender = s.sender := by cases a <;> rfl
@[simp] theorem writeSample_wf (a : Adc) (i : Nat) (v : Sample) : (writeSample a i v s).wf = s.wf := by cases a <;> rfl
@[simp] theorem writeSample_dmaArmed (a : Adc) (i : Nat) (v : Sample) :
    (writeSample a i v s).dmaArmed = s.dmaArmed := by cases a <;> rfl
@[simp] theorem writeSample_dmaPos (a : Adc) (i : Nat) (v : Sample) :
    (writeSample a i v s).dmaPos = s.dmaPos := by cases a <;> rfl
@[simp] theorem writeSample_history (a : Adc) (i : Nat) (v : Sample) :
    (writeSample a i v s).history = s.history := by cases a <;> rfl
@[simp] theorem writeSample_held (a : Adc) (i : Nat) (v : Sample) :
    (writeSample a i v s).held = s.held := by cases a <;> rfl
@[simp] theorem writeSample_agenda (a : Adc) (i : Nat) (v : Sample) :
    (writeSample a i v s).agenda = s.agenda := by cases a <;> rfl
@[simp] theorem writeSample_oracle (a : Adc) (i : Nat) (v : Sample) :
    (writeSample a i v s).oracle = s.oracle := by cases a <;> rfl
@[simp] theorem writeSample_epoch (a : Adc) (i : Nat) (v : Sample) :
    (writeSample a i v s).epoch = s.epoch := by cases a <;> rfl

@[simp] theorem writeSample_adc0_buf0 (i : Nat) (v : Sample) :
    (writeSample .adc0 i v s).buf0 = Memory.put s.buf0 i v := rfl
@[simp] theorem writeSample_adc0_buf1 (i : Nat) (v : Sample) : (writeSample .adc0 i v s).buf1 = s.buf1 := rfl
@[simp] theorem writeSample_adc1_buf0 (i : Nat) (v : Sample) : (writeSample .adc1 i v s).buf0 = s.buf0 := rfl
@[simp] theorem writeSample_adc1_buf1 (i : Nat) (v : Sample) :
    (writeSample .adc1 i v s).buf1 = Memory.put s.buf1 i v := rfl

end Sys2Proof.Machine
end

