-- ==== Sys2Proof/Laws/Memory.lean ====
section
/-! SUPPORT. The memory spaces (R60–R62): a read after a write gives the value written, a write leaves every other element
alone, every write keeps the canonical form, and in canonical form equal contents are equal lists. -/

namespace Sys2Proof.Machine

namespace Memory

variable {α : Type}

@[simp] theorem find_put_self (m : Memory α) (i : Nat) (v : α) : find (put m i v) i = some v := by
  induction m with
  | nil => simp [put, find]
  | cons cell rest ih =>
    obtain ⟨j, w⟩ := cell
    simp only [put]
    split
    · simp [find]
    · split
      · simp [find]
      · rename_i h; simp [find, h, ih]

theorem find_put_other (m : Memory α) {i j : Nat} (v : α) (h : j ≠ i) : find (put m i v) j = find m j := by
  induction m with
  | nil => simp [put, find, h]
  | cons cell rest ih =>
    obtain ⟨k, w⟩ := cell
    simp only [put]
    split
    · simp [find, h]
    · split
      · rename_i hk; subst hk; simp [find, h]
      · simp [find, ih]

theorem find_put (m : Memory α) (i j : Nat) (v : α) :
    find (put m i v) j = if j = i then some v else find m j := by
  by_cases h : j = i
  · subst h; simp
  · simp [h, find_put_other m v h]

/-- An index below the first one listed is not listed. -/
theorem find_of_risesFrom (m : Memory α) {lo i : Nat} (h : risesFrom lo m = true) (hi : i < lo) : find m i = none := by
  induction m generalizing lo with
  | nil => rfl
  | cons cell rest ih =>
    obtain ⟨j, w⟩ := cell
    simp only [risesFrom, Bool.and_eq_true, decide_eq_true_eq] at h
    simp only [find]
    rw [if_neg (by omega)]
    exact ih h.2 (by omega)

theorem risesFrom_mono (m : Memory α) {lo lo' : Nat} (h : risesFrom lo m = true) (hl : lo' ≤ lo) :
    risesFrom lo' m = true := by
  cases m with
  | nil => rfl
  | cons cell rest =>
    obtain ⟨j, w⟩ := cell
    simp only [risesFrom, Bool.and_eq_true, decide_eq_true_eq] at h ⊢
    exact ⟨by omega, h.2⟩

theorem put_risesFrom (m : Memory α) {lo i : Nat} (v : α) (h : risesFrom lo m = true) (hi : lo ≤ i) :
    risesFrom lo (put m i v) = true := by
  induction m generalizing lo with
  | nil => simp [put, risesFrom, hi]
  | cons cell rest ih =>
    obtain ⟨j, w⟩ := cell
    simp only [risesFrom, Bool.and_eq_true, decide_eq_true_eq] at h
    simp only [put]
    split
    · simp only [risesFrom, Bool.and_eq_true, decide_eq_true_eq]
      exact ⟨hi, by omega, h.2⟩
    · split
      · rename_i hj; subst hj; simp [risesFrom, hi, h.2]
      · simp only [risesFrom, Bool.and_eq_true, decide_eq_true_eq]
        exact ⟨h.1, ih h.2 (by omega)⟩

/-- A write keeps the canonical form. -/
theorem put_wf (m : Memory α) (i : Nat) (v : α) (h : wf m = true) : wf (put m i v) = true :=
  put_risesFrom m v h (Nat.zero_le i)

/-- A write inside a space of `n` elements keeps every index inside it. -/
theorem put_below (m : Memory α) {n i : Nat} (v : α) (h : below n m = true) (hi : i < n) :
    below n (put m i v) = true := by
  induction m with
  | nil => simp [put, below, hi]
  | cons cell rest ih =>
    obtain ⟨j, w⟩ := cell
    simp only [below, List.all_cons, Bool.and_eq_true, decide_eq_true_eq] at h ih ⊢
    simp only [put]
    split
    · simp [hi, h.1]; simpa using h.2
    · split
      · simp [hi]; simpa using h.2
      · simp only [List.all_cons, Bool.and_eq_true, decide_eq_true_eq]
        exact ⟨h.1, ih h.2⟩

/-- In canonical form a memory is determined by what is listed where: equal memories are equal data. -/
theorem ext_of_risesFrom (m m' : Memory α) {lo : Nat} (h : risesFrom lo m = true) (h' : risesFrom lo m' = true)
    (hf : ∀ i, find m i = find m' i) : m = m' := by
  induction m generalizing m' lo with
  | nil =>
    cases m' with
    | nil => rfl
    | cons cell rest => have := hf cell.1; simp [find] at this
  | cons cell rest ih =>
    obtain ⟨j, w⟩ := cell
    cases m' with
    | nil => have := hf j; simp [find] at this
    | cons cell' rest' =>
      obtain ⟨j', w'⟩ := cell'
      simp only [risesFrom, Bool.and_eq_true, decide_eq_true_eq] at h h'
      have head : j = j' := by
        have h1 := hf j
        have h2 := hf j'
        simp only [find, if_true] at h1 h2
        by_cases hjj : j = j'
        · exact hjj
        · rw [if_neg hjj] at h1
          rw [if_neg (Ne.symm hjj)] at h2
          rcases Nat.lt_or_gt_of_ne hjj with hlt | hgt
          · rw [find_of_risesFrom rest' h'.2 (by omega)] at h1; simp at h1
          · rw [find_of_risesFrom rest h.2 (by omega)] at h2; simp at h2
      subst head
      have hw := hf j
      simp only [find, if_true, Option.some.injEq] at hw
      subst hw
      congr 1
      refine ih rest' h.2 h'.2 fun i => ?_
      by_cases hi : i = j
      · subst hi
        rw [find_of_risesFrom rest h.2 (by omega), find_of_risesFrom rest' h'.2 (by omega)]
      · have := hf i; simpa [find, hi] using this

theorem ext_of_wf (m m' : Memory α) (h : wf m = true) (h' : wf m' = true) (hf : ∀ i, find m i = find m' i) : m = m' :=
  ext_of_risesFrom m m' h h' hf

end Memory

/-! ### Buffers -/

@[simp] theorem readSample_writeSample_self (a : Adc) (i : Nat) (v : Sample) (s : State) :
    readSample a i (writeSample a i v s) = v := by
  cases a <;> simp [readSample, bufOf]

theorem readSample_writeSample_other {a a' : Adc} {i i' : Nat} (v : Sample) (s : State) (h : (a', i') ≠ (a, i)) :
    readSample a' i' (writeSample a i v s) = readSample a' i' s := by
  have h : a' = a → i' ≠ i := fun ha hi => h (by rw [ha, hi])
  cases a <;> cases a' <;> simp_all [readSample, bufOf, Memory.find_put_other]

@[simp] theorem readSlot_writeSample (k : Nat) (a : Adc) (i : Nat) (v : Sample) (s : State) :
    readSlot k (writeSample a i v s) = readSlot k s := by simp [readSlot]

/-! ### Slots -/

@[simp] theorem readSlot_writeSlot_self (k : Nat) (f : Frame) (s : State) : readSlot k (writeSlot k f s) = f := by
  simp [readSlot]

theorem readSlot_writeSlot_other {k k' : Nat} (f : Frame) (s : State) (h : k' ≠ k) :
    readSlot k' (writeSlot k f s) = readSlot k' s := by simp [readSlot, Memory.find_put_other _ f h]

/-! ### Reads depend on nothing but the memory read -/

theorem readSample_congr {s t : State} (h0 : t.buf0 = s.buf0) (h1 : t.buf1 = s.buf1) (he : t.epoch = s.epoch)
    (a : Adc) (i : Nat) : readSample a i t = readSample a i s := by
  cases a <;> simp [readSample, bufOf, h0, h1, he]

theorem readSlot_congr {s t : State} (h : t.slots = s.slots) (he : t.epoch = s.epoch) (k : Nat) :
    readSlot k t = readSlot k s := by simp [readSlot, h, he]

/-! ### After a power-on reset nothing is listed -/

theorem powerOn_memories_wf (c : Config) (e : Nat) (ag : List Turn) (o : Oracle) :
    Memory.wf (State.powerOn c e ag o).buf0 = true ∧ Memory.wf (State.powerOn c e ag o).buf1 = true
      ∧ Memory.wf (State.powerOn c e ag o).slots = true := ⟨rfl, rfl, rfl⟩

theorem reset_memories_wf :
    Memory.wf State.reset.buf0 = true ∧ Memory.wf State.reset.buf1 = true ∧ Memory.wf State.reset.slots = true :=
  powerOn_memories_wf _ _ _ _

end Sys2Proof.Machine
end

