-- ==== Sys2Proof/Laws/Queue.lean ====
section
/-! SUPPORT. The ring's arithmetic (R191–R195) and what a PUSH and a POP do to the frames in it (R196–R199). -/

namespace Sys2Proof.Machine

/-! ### Index arithmetic -/

theorem modulus_pos (c : Config) : 0 < modulus c := by
  have := c.qRange
  cases h : c.queueFullRule <;> simp [modulus, h] <;> omega

theorem modulus_le (c : Config) : modulus c ≤ 131072 := by
  have := c.qRange
  cases h : c.queueFullRule <;> simp [modulus, h] <;> omega

theorem capacity_lt_modulus (c : Config) : capacity c < modulus c := by
  have := c.qRange
  cases h : c.queueFullRule <;> simp [capacity, modulus, h] <;> omega

theorem capacity_le_Q (c : Config) : capacity c ≤ c.Q := by
  cases h : c.queueFullRule <;> simp [capacity, h]

theorem Q_dvd_modulus (c : Config) : c.Q ∣ modulus c := by
  unfold modulus
  split
  · exact Nat.dvd_mul_left _ _
  · exact Nat.dvd_refl _

theorem subMod_eq (m : Nat) (w r : BitVec 32) (hr : r.toNat < m) (hw : w.toNat < m) :
    subMod m w r = if r.toNat ≤ w.toNat then w.toNat - r.toNat else w.toNat + m - r.toNat := by
  unfold subMod
  rw [Nat.mod_eq_of_lt hr]
  split
  · rename_i h
    rw [show w.toNat + (m - r.toNat) = (w.toNat - r.toNat) + m by omega, Nat.add_mod_right,
      Nat.mod_eq_of_lt (by omega)]
  · rw [show w.toNat + (m - r.toNat) = w.toNat + m - r.toNat by omega, Nat.mod_eq_of_lt (by omega)]

theorem adv_toNat (c : Config) (x : BitVec 32) (hx : x.toNat < modulus c) :
    (adv c x).toNat = if x.toNat + 1 = modulus c then 0 else x.toNat + 1 := by
  have := modulus_le c
  unfold adv
  rw [BitVec.toNat_ofNat]
  split
  · rename_i h; rw [h, Nat.mod_self]
  · rw [Nat.mod_eq_of_lt (a := x.toNat + 1) (by omega), Nat.mod_eq_of_lt (by omega)]

theorem adv_lt (c : Config) (x : BitVec 32) : (adv c x).toNat < modulus c := by
  have h1 := modulus_le c
  have h2 := Nat.mod_lt (x.toNat + 1) (modulus_pos c)
  unfold adv
  rw [BitVec.toNat_ofNat, Nat.mod_eq_of_lt (by omega)]
  exact h2

theorem slotIndex_lt (c : Config) (x : BitVec 32) : slotIndex c x < c.Q := Nat.mod_lt _ (by have := c.qRange; omega)

theorem count_eq (c : Config) (r w : BitVec 32) (hr : r.toNat < modulus c) (hw : w.toNat < modulus c) :
    count c r w = if r.toNat ≤ w.toNat then w.toNat - r.toNat else w.toNat + modulus c - r.toNat :=
  subMod_eq _ _ _ hr hw

theorem count_lt (c : Config) (r w : BitVec 32) : count c r w < modulus c := Nat.mod_lt _ (modulus_pos c)

/-- The two forms of the full test say one thing: the occupancy is the capacity (R194, R195). -/
theorem full_eq (c : Config) (r w : BitVec 32) (hr : r.toNat < modulus c) (hw : w.toNat < modulus c) :
    full c r w = true ↔ count c r w = capacity c := by
  have hq := c.qRange
  cases h : c.queueFullRule with
  | countQ => simp [full, count, capacity, modulus, h]
  | moduloReserveOne =>
    rw [count_eq c r w hr hw]
    simp only [full, capacity, modulus, h] at hr hw ⊢
    rw [beq_iff_eq]
    by_cases hw' : w.toNat + 1 = c.Q
    · rw [hw', Nat.mod_self]; split <;> omega
    · rw [Nat.mod_eq_of_lt (by omega)]; split <;> omega

theorem empty_eq (c : Config) (r w : BitVec 32) (hr : r.toNat < modulus c) (hw : w.toNat < modulus c) :
    empty r w = true ↔ count c r w = 0 := by
  rw [count_eq c r w hr hw]
  simp only [empty, beq_iff_eq]
  constructor
  · rintro rfl; simp
  · intro h; apply BitVec.eq_of_toNat_eq; split at h <;> omega

/-- One more frame after a PUSH into a ring that is not full (R195, R196). -/
theorem count_adv_write (c : Config) (r w : BitVec 32) (hr : r.toNat < modulus c) (hw : w.toNat < modulus c)
    (h : count c r w + 1 < modulus c) : count c r (adv c w) = count c r w + 1 := by
  rw [count_eq c r _ hr (adv_lt c w)]
  rw [count_eq c r w hr hw] at h ⊢
  rw [adv_toNat c w hw]
  split at h <;> split <;> (try split) <;> omega

/-- One frame fewer after a POP from a ring that is not empty (R195, R197). -/
theorem count_adv_read (c : Config) (r w : BitVec 32) (hr : r.toNat < modulus c) (hw : w.toNat < modulus c)
    (h : count c r w ≠ 0) : count c (adv c r) w + 1 = count c r w := by
  rw [count_eq c _ w (adv_lt c r) hw]
  rw [count_eq c r w hr hw] at h ⊢
  rw [adv_toNat c r hr]
  split at h <;> split <;> (try split) <;> omega

/-! ### The frames in the ring (R198) -/

/-- `slot_index(q_read + j mod M)` is `(q_read + j) mod Q`, since `Q` divides `M` (R191, R192). -/
theorem slotOf_mod (c : Config) (n : Nat) : n % modulus c % c.Q = n % c.Q := Nat.mod_mod_of_dvd n (Q_dvd_modulus c)

/-- Frames fewer than `Q` apart lie in different slots. -/
theorem slot_ne {q a b : Nat} (hab : a < b) (hq : b < a + q) : a % q ≠ b % q := by
  intro h
  have h2 : (b - a) % q = 0 := Nat.sub_mod_eq_zero_of_mod_eq h.symm
  rw [Nat.mod_eq_of_lt (by omega)] at h2
  omega

end Sys2Proof.Machine
end

