-- ==== Sys2Proof/Laws/Consumer.lean ====
section
/-! SUPPORT. What the consumer's steps and the foreground's commands can do, said once: host answers (R318), the POP step (R221),
SEND (R222), RSTREAM (R232) and START (R272). -/

namespace Sys2Proof.Machine

/-! ### Host answers -/

theorem answerNow_eq (s : State) : answerNow s = answerAt s 0 := by
  unfold answerNow answerAt
  cases s.oracle.answers <;> rfl

/-- A call uses up one answer. -/
@[simp] theorem answerAt_callBool (c : HostCall) (s : State) (k : Nat) :
    answerAt (callBool c s) k = answerAt s (k + 1) := by
  unfold answerAt
  cases h : s.oracle.answers with
  | nil => simp [h]; congr 1; omega
  | cons b rest => simp [h]; cases rest[k]? <;> simp; congr 1; omega

theorem answerAt_congr {s t : State} (h : t.oracle = s.oracle) (k : Nat) : answerAt t k = answerAt s k := by
  simp [answerAt, h]

theorem callBool_eq (c : HostCall) (s : State) :
    callBool c s =
      { s with
        oracle := s.oracle.answered 1
        history := s.history ++ [.host c (.bool (answerAt s 0))] } := by
  unfold callBool record Oracle.answered
  rw [answerNow_eq, List.drop_one]

theorem callUdpNew_eq (s : State) :
    callUdpNew s =
      { s with
        oracle := s.oracle.handled
        history := s.history ++ [.host .udpNew (.handle (handleNow s))] } := rfl

@[simp] theorem answerAt_callUdpNew (s : State) (k : Nat) : answerAt (callUdpNew s) k = answerAt s k := rfl

theorem handleNow_congr {s t : State} (h : t.oracle = s.oracle) : handleNow t = handleNow s := by
  simp [handleNow, h]

/-! ### When an operation is admitted -/

theorem inService_iff (s : State) : inService s = true ↔ (s.life = .ready ∨ s.life = .running) := by
  simp [inService]

theorem holding_of_idle {s : State} (h : s.sender = .idle) : holding s = false := by simp [holding, h]

theorem holding_of_not_inService {s : State} (h : inService s = false) : holding s = false := by simp [holding, h]

/-- Everything a foreground transaction can do: wait, or be performed (R275). -/
theorem foreground_cases (w : TxnWord) (f : State → State) (s : State) :
    (holding s = true ∧ foreground w f s = hold w s) ∨ (holding s = false ∧ foreground w f s = f s) := by
  unfold foreground
  cases h : holding s <;> simp

/-! ### RSTREAM's first part (R232) -/

/-- What `tearDown` does: the counters are zero and no PCB is left; the old one's release is recorded. -/
theorem tearDown_eq (s : State) :
    tearDown s =
      { s with
        packetSequence := 0
        streamIndex := 0
        pcb := none
        history := s.history ++ releaseEvents s.pcb } := by
  unfold tearDown releaseEvents
  cases s.pcb <;> simp [callNone, record]

@[simp] theorem tearDown_oracle (s : State) : (tearDown s).oracle = s.oracle := by rw [tearDown_eq]

@[simp] theorem tearDown_cfg (s : State) : (tearDown s).cfg = s.cfg := by rw [tearDown_eq]

@[simp] theorem handleNow_tearDown (s : State) : handleNow (tearDown s) = handleNow s :=
  handleNow_congr (tearDown_oracle s)

@[simp] theorem answerAt_tearDown (s : State) (k : Nat) : answerAt (tearDown s) k = answerAt s k :=
  answerAt_congr (tearDown_oracle s) k

/-! ### Differing only in the consumer's fields -/

theorem OnlyConsumerWrites.refl (s : State) : OnlyConsumerWrites s s := rfl

theorem OnlyConsumerWrites.trans {s t u : State} (h1 : OnlyConsumerWrites s t) (h2 : OnlyConsumerWrites t u) :
    OnlyConsumerWrites s u := by
  unfold OnlyConsumerWrites at *
  rw [h2, h1]

theorem popStep_onlyConsumerWrites (s : State) : OnlyConsumerWrites s (popStep s) := by
  unfold popStep; split <;> rfl

theorem advanceSequence_onlyConsumerWrites (s : State) : OnlyConsumerWrites s (advanceSequence s) := rfl

theorem advanceOnForm_onlyConsumerWrites (s : State) : OnlyConsumerWrites s (advanceOnForm s) := by
  unfold advanceOnForm; split <;> rfl

theorem advanceOnSuccess_onlyConsumerWrites (ok : Bool) (s : State) : OnlyConsumerWrites s (advanceOnSuccess ok s) := by
  unfold advanceOnSuccess; split
  · rfl
  · split <;> rfl

theorem reportSend_onlyConsumerWrites (ok : Bool) (s : State) : OnlyConsumerWrites s (reportSend ok s) := by
  unfold reportSend; split <;> rfl

theorem submitDatagram_onlyConsumerWrites (h : Handle) (n : Nat) (bytes : List Byte) (s : State) :
    OnlyConsumerWrites s (submitDatagram h n bytes s) :=
  OnlyConsumerWrites.trans (t := record (.datagram bytes (answerNow s)) (callNone (.free n) (callBool (.send h bytes) s)))
    rfl
    ((advanceOnSuccess_onlyConsumerWrites _ _).trans (reportSend_onlyConsumerWrites _ _))

theorem sendFrame_onlyConsumerWrites (h : Handle) (s : State) : OnlyConsumerWrites s (sendFrame h s) := by
  unfold sendFrame
  dsimp only
  split
  · exact OnlyConsumerWrites.trans (t := callBool (.alloc (datagramLength s)) s) rfl
      ((advanceOnForm_onlyConsumerWrites _).trans (submitDatagram_onlyConsumerWrites _ _ _ _))
  · rfl

theorem sendStep_onlyConsumerWrites (s : State) : OnlyConsumerWrites s (sendStep s) := by
  unfold sendStep
  dsimp only
  split
  · split
    · exact OnlyConsumerWrites.trans (t := { s with sender := .draining }) rfl (sendFrame_onlyConsumerWrites _ _)
    · rfl
  · rfl

section
variable {s t : State} (h : OnlyConsumerWrites s t)
include h

theorem OnlyConsumerWrites.cfg : t.cfg = s.cfg := by rw [h]
theorem OnlyConsumerWrites.life : t.life = s.life := by rw [h]
theorem OnlyConsumerWrites.fatalCause : t.fatalCause = s.fatalCause := by rw [h]
theorem OnlyConsumerWrites.errCmd : t.errCmd = s.errCmd := by rw [h]
theorem OnlyConsumerWrites.pending : t.pending = s.pending := by rw [h]
theorem OnlyConsumerWrites.nextSampleIdx : t.nextSampleIdx = s.nextSampleIdx := by rw [h]
theorem OnlyConsumerWrites.buf0 : t.buf0 = s.buf0 := by rw [h]
theorem OnlyConsumerWrites.buf1 : t.buf1 = s.buf1 := by rw [h]
theorem OnlyConsumerWrites.qWrite : t.qWrite = s.qWrite := by rw [h]
theorem OnlyConsumerWrites.slots : t.slots = s.slots := by rw [h]
theorem OnlyConsumerWrites.pcb : t.pcb = s.pcb := by rw [h]
theorem OnlyConsumerWrites.dmaArmed : t.dmaArmed = s.dmaArmed := by rw [h]
theorem OnlyConsumerWrites.dmaPos : t.dmaPos = s.dmaPos := by rw [h]
theorem OnlyConsumerWrites.held : t.held = s.held := by rw [h]
theorem OnlyConsumerWrites.agenda : t.agenda = s.agenda := by rw [h]
theorem OnlyConsumerWrites.epoch : t.epoch = s.epoch := by rw [h]

theorem OnlyConsumerWrites.sameBuffers : SameBuffers s t := fun a i => readSample_congr h.buf0 h.buf1 h.epoch a i
theorem OnlyConsumerWrites.sameSlots : SameSlots s t := fun k => readSlot_congr h.slots h.epoch k

end

/-! ### SEND: its three outcomes (R222) -/

theorem sendStep_of_invalid (s : State) (h : frameSendable s = false) :
    sendStep s = raiseDrop .invalidFrame { s with sender := .draining } := by
  simp [sendStep, h]

theorem sendStep_of_sendable (s : State) {p : Handle} (h : frameSendable s = true) (hp : s.pcb = some p) :
    sendStep s = sendFrame p { s with sender := .draining } := by
  simp [sendStep, h, hp]

theorem frameSendable_pcb {s : State} (h : frameSendable s = true) : ∃ p, s.pcb = some p := by
  simp only [frameSendable, Bool.and_eq_true] at h
  exact Option.isSome_iff_exists.mp h.2

/-- The sequence number after a datagram is formed and answered (R227). -/
def sequenceNext (c : Config) (ok : Bool) (n : BitVec 32) : BitVec 32 :=
  match c.seqAdvance with
  | .onForm => n + 1
  | .onSuccess => if ok then n + 1 else n

/-- The stream index after a datagram is formed and answered (R227). -/
def streamNext (c : Config) (ok : Bool) (n : BitVec 64) : BitVec 64 :=
  match c.seqAdvance with
  | .onForm => n + BitVec.ofNat 64 c.S
  | .onSuccess => if ok then n + BitVec.ofNat 64 c.S else n

/-- SEND with its buffer allocated, as one update: the counters, the latch on a refusal, two answers used up, and the events
in order (R222). -/
theorem sendFrame_of_alloc (h : Handle) (s : State) (ha : answerAt s 0 = true) :
    sendFrame h s =
      { s with
        packetSequence := sequenceNext s.cfg (answerAt s 1) s.packetSequence
        streamIndex := streamNext s.cfg (answerAt s 1) s.streamIndex
        dropLatch := if answerAt s 1 then s.dropLatch else s.dropLatch ||| 1
        oracle := s.oracle.answered 2
        history := s.history ++
          [.host (.alloc (datagramLength s)) (.bool true), .host (.send h (formDatagram s)) (.bool (answerAt s 1)),
            .host (.free (datagramLength s)) .none, .datagram (formDatagram s) (answerAt s 1)]
          ++ if answerAt s 1 then [] else [.drop .sendFail] } := by
  have hans : ∀ t : State, t.oracle = (callBool (.alloc (datagramLength s)) s).oracle →
      answerNow t = answerAt s 1 := fun t ht => by
    rw [answerNow_eq, answerAt_congr ht]; simp
  unfold sendFrame
  rw [answerNow_eq, ha]
  simp only [if_true]
  unfold submitDatagram
  have h1 := hans (advanceOnForm (callBool (.alloc (datagramLength s)) s))
    (by unfold advanceOnForm; split <;> rfl)
  simp only [h1]
  cases hs : s.cfg.seqAdvance <;> cases ho : answerAt s 1 <;>
    simp [advanceOnForm, advanceOnSuccess, reportSend, hs, sequenceNext, streamNext, callBool_eq, callNone, record,
      advanceSequence, raiseDrop, Oracle.answered, answerAt]
  all_goals simp_all [answerAt]

theorem sendFrame_of_no_alloc (h : Handle) (s : State) (ha : answerAt s 0 = false) :
    sendFrame h s = raiseDrop .allocFail (callBool (.alloc (datagramLength s)) s) := by
  simp [sendFrame, answerNow_eq, ha]

end Sys2Proof.Machine
end

