-- ==== Sys2Proof/Laws/Encoding.lean ====
section
/-! SUPPORT. Transaction words as numbers (R90–R95): what each builder makes and what each field reads, so that questions about
words are questions about quotients and remainders. -/

namespace Sys2Proof.Machine

/-! ### Fields read -/

theorem opField_toNat (w : TxnWord) : (opField w).toNat = w.toNat / 2 ^ 28 := by
  have := w.isLt
  simp only [opField, BitVec.extractLsb'_toNat, Nat.shiftRight_eq_div_pow]
  omega

theorem extract_toNat (w : TxnWord) (lo n : Nat) : (w.extractLsb' lo n).toNat = w.toNat / 2 ^ lo % 2 ^ n := by
  simp only [BitVec.extractLsb'_toNat, Nat.shiftRight_eq_div_pow]

theorem extract_eq_zero_iff (w : TxnWord) (lo n : Nat) : w.extractLsb' lo n = 0 ↔ w.toNat / 2 ^ lo % 2 ^ n = 0 := by
  rw [← extract_toNat]
  exact ⟨fun h => by rw [h]; rfl, fun h => BitVec.eq_of_toNat_eq (by rw [h]; rfl)⟩

/-- Bit `k` of a word, as a number. -/
theorem bit_toNat (w : TxnWord) (k : Nat) : (w.getLsbD k).toNat = w.toNat / 2 ^ k % 2 := by
  rw [BitVec.getLsbD, Nat.testBit_eq_decide_div_mod_eq]
  have := Nat.mod_lt (w.toNat / 2 ^ k) (by omega : 2 > 0)
  by_cases h : w.toNat / 2 ^ k % 2 = 1
  · simp [h]
  · have : w.toNat / 2 ^ k % 2 = 0 := by omega
    simp [this]

/-! ### The words built -/

/-- The number of an ADC. -/
def adcNumber : Adc → Nat
  | .adc0 => 0
  | .adc1 => 1

/-- The number of a half. -/
def halfNumber : Half → Nat
  | .first => 0
  | .second => 1

@[simp] theorem adcNumber_ofBit (b : Bool) : adcNumber (Adc.ofBit b) = b.toNat := by cases b <;> rfl
@[simp] theorem halfNumber_ofBit (b : Bool) : halfNumber (Half.ofBit b) = b.toNat := by cases b <;> rfl

theorem adc_eq_of_number {a b : Adc} (h : adcNumber a = adcNumber b) : a = b := by
  cases a <;> cases b <;> first | rfl | cases h

theorem half_eq_of_number {a b : Half} (h : halfNumber a = halfNumber b) : a = b := by
  cases a <;> cases b <;> first | rfl | cases h

theorem evtWord_toNat (a : Adc) (h : Half) : (evtWord a h).toNat = 0x50000000 + 2 * halfNumber h + adcNumber a := by
  cases a <;> cases h <;> rfl

theorem rdstatWord_toNat (reg : BitVec 8) : (rdstatWord reg).toNat = 0x70000000 + reg.toNat := by
  have h := reg.isLt
  have := Nat.shiftLeft_add_eq_or_of_lt (a := 0x700000) (i := 8) (b := reg.toNat) h
  rw [rdstatWord, BitVec.toNat_or, BitVec.toNat_setWidth, Nat.mod_eq_of_lt (by omega)]
  exact this.symm

/-- R94: `0x60000000 | A<<27 | IDX<<16 | VAL`; the fields do not overlap, so the word is their sum. -/
theorem dmawrWord_toNat (a : Adc) (idx : BitVec 11) (val : Sample) :
    (dmawrWord a idx val).toNat = 0x60000000 + adcNumber a * 2 ^ 27 + idx.toNat * 2 ^ 16 + val.toNat := by
  have hi := idx.isLt
  have hv := val.isLt
  have hc : (0x60000000 ||| ((a.bit.setWidth 32) <<< 27) : TxnWord).toNat = (12 + adcNumber a) <<< 27 := by
    cases a <;> rfl
  have hx : ((idx.setWidth 32) <<< 16 : TxnWord).toNat = idx.toNat <<< 16 := by
    rw [BitVec.toNat_shiftLeft, BitVec.toNat_setWidth, Nat.shiftLeft_eq, Nat.shiftLeft_eq]
    omega
  have hy : (val.setWidth 32 : TxnWord).toNat = val.toNat := by
    rw [BitVec.toNat_setWidth]
    omega
  have h1 : (12 + adcNumber a) <<< 27 ||| idx.toNat <<< 16 = ((12 + adcNumber a) <<< 11 + idx.toNat) <<< 16 := by
    rw [← Nat.shiftLeft_add_eq_or_of_lt (by rw [Nat.shiftLeft_eq]; omega)]
    simp only [Nat.shiftLeft_eq]
    omega
  rw [dmawrWord, BitVec.toNat_or, BitVec.toNat_or, hc, hx, hy, h1, ← Nat.shiftLeft_add_eq_or_of_lt hv]
  simp only [Nat.shiftLeft_eq]
  omega

end Sys2Proof.Machine
end

