-- ==== Sys2Proof/Laws/Producer.lean ====
section
/-! SUPPORT. What the producer's operations can do, said once: PUSH (R196), PACK (R160, R161), MARK (R136), EVT (R135) and SMPL
(R133), and that they write only the producer's fields (R40). -/

namespace Sys2Proof.Machine

/-! ### Differing only in the producer's fields -/

theorem OnlyProducerWrites.refl (s : State) : OnlyProducerWrites s s := rfl

theorem OnlyProducerWrites.trans {s t u : State} (h1 : OnlyProducerWrites s t) (h2 : OnlyProducerWrites t u) :
    OnlyProducerWrites s u := by
  unfold OnlyProducerWrites at *
  rw [h2, h1]

theorem record_onlyProducerWrites (e : Event) (s : State) : OnlyProducerWrites s (record e s) := rfl
theorem raiseDrop_onlyProducerWrites (k : DropKind) (s : State) : OnlyProducerWrites s (raiseDrop k s) := rfl
theorem enqueue_onlyProducerWrites (f : Frame) (s : State) : OnlyProducerWrites s (enqueue f s) := rfl
theorem setPending_onlyProducerWrites (a : Adc) (h : Half) (s : State) : OnlyProducerWrites s (setPending a h s) := rfl
theorem advanceIndex_onlyProducerWrites (s : State) : OnlyProducerWrites s (advanceIndex s) := rfl

/-! ### PUSH -/

theorem publish_of_full (f : Frame) (s : State) (h : queueFull s = true) : publish f s = s := by
  simp [publish, push, h]

theorem publish_of_not_full (f : Frame) (s : State) (h : queueFull s = false) :
    publish f s = record (.published (slotIndex s.cfg s.qWrite) f.firstSampleIdx f.flags) (enqueue f s) := by
  simp [publish, push, h]

theorem publish_onlyProducerWrites (f : Frame) (s : State) : OnlyProducerWrites s (publish f s) := by
  cases h : queueFull s
  · rw [publish_of_not_full f s h]; rfl
  · rw [publish_of_full f s h]; rfl

/-! ### PACK -/

/-- The guard never fires (R161). -/
@[simp] theorem packAborts_eq_false (h : Half) (c : Config) : packAborts h c = false := by
  have := c.sRange
  have h2 : ¬ 2 * c.S < Half.index h * c.S + c.S := by cases h <;> simp [Half.index] <;> omega
  have h3 : (c.S == 0) = false := by simp; omega
  simp [packAborts, h2, h3, Config.channels]

@[simp] theorem queueFull_clearLatch_advanceIndex (s : State) : queueFull (clearLatch (advanceIndex s)) = queueFull s := rfl

/-- Everything PACK does (R160): a full queue discards the half; else the frame is stored and published. -/
theorem pack_eq (h : Half) (s : State) :
    pack h s =
      if queueFull s then discardHalf s
      else record (.published (slotIndex s.cfg s.qWrite) s.nextSampleIdx s.dropLatch)
        (enqueue (buildFrame h s) (clearLatch (advanceIndex s))) := by
  unfold pack
  rw [if_neg (by simp)]
  split
  · rfl
  · rename_i hf
    rw [publish_of_not_full _ _ (by simpa using hf)]
    rfl

theorem discardHalf_onlyProducerWrites (s : State) : OnlyProducerWrites s (discardHalf s) := by
  unfold discardHalf; split <;> rfl

theorem pack_onlyProducerWrites (h : Half) (s : State) : OnlyProducerWrites s (pack h s) := by
  rw [pack_eq]
  split
  · exact discardHalf_onlyProducerWrites s
  · rfl

/-- One time-step after another, each two words long. -/
theorem flatMap_pairs_length {α : Type} (n : Nat) (f g : Nat → α) :
    ((List.range n).flatMap fun i => [f i, g i]).length = n * 2 := by
  induction n with
  | zero => rfl
  | succ n ih => simp [List.range_succ, List.flatMap_append, ih]; omega

theorem flatMap_pairs_getElem? {α : Type} (n : Nat) (f g : Nat → α) (i : Nat) (hi : i < n) :
    ((List.range n).flatMap fun i => [f i, g i])[2 * i]? = some (f i)
      ∧ ((List.range n).flatMap fun i => [f i, g i])[2 * i + 1]? = some (g i) := by
  induction n with
  | zero => omega
  | succ n ih =>
    have hl := flatMap_pairs_length n f g
    rw [List.range_succ, List.flatMap_append]
    by_cases h : i < n
    · rw [List.getElem?_append_left (by omega), List.getElem?_append_left (by omega)]
      exact ih h
    · have : i = n := by omega
      subst this
      rw [List.getElem?_append_right (by omega), List.getElem?_append_right (by omega), hl]
      simp [show 2 * i - i * 2 = 0 by omega, show 2 * i + 1 - i * 2 = 1 by omega]

theorem halfSamples_length (h : Half) (s : State) : (halfSamples h s).length = frameSamples s.cfg :=
  flatMap_pairs_length _ _ _

/-- The interleave law (R162): sample `2·i + c` is channel `c` at time-step `i`. -/
theorem halfSamples_getElem? (h : Half) (s : State) (i : Nat) (hi : i < s.cfg.S) :
    (halfSamples h s)[2 * i]? = some (storedSample s.cfg (readSample .adc0 (Half.index h * s.cfg.S + i) s))
      ∧ (halfSamples h s)[2 * i + 1]?
        = some (storedSample s.cfg (readSample .adc1 (Half.index h * s.cfg.S + i) s)) :=
  flatMap_pairs_getElem? s.cfg.S
    (fun i => storedSample s.cfg (readSample .adc0 (Half.index h * s.cfg.S + i) s))
    (fun i => storedSample s.cfg (readSample .adc1 (Half.index h * s.cfg.S + i) s)) i hi

/-- At 16 bits a sample is stored unchanged (R165). -/
theorem storedSample_of_bits16 {c : Config} (hc : c.sampleBits = .bits16) (w : Sample) : storedSample c w = w := by
  simp [storedSample, hc]

/-- At 8 bits the stored word is the sample modulo 256 (R165). -/
theorem storedSample_toNat_of_bits8 {c : Config} (hc : c.sampleBits = .bits8) (w : Sample) :
    (storedSample c w).toNat = w.toNat % 256 := by
  simp only [storedSample, hc, BitVec.toNat_setWidth, BitVec.extractLsb'_toNat, Nat.shiftRight_zero]
  omega

/-! ### The pending-pair map -/

@[simp] theorem Pending.get_set_self (p : Pending) (a : Adc) (h : Half) : (p.set a h).get a h = true := by
  cases a <;> cases h <;> rfl

theorem Pending.get_set_other (p : Pending) {a a' : Adc} {h h' : Half} (hne : (a', h') ≠ (a, h)) :
    (p.set a h).get a' h' = p.get a' h' := by
  cases a <;> cases h <;> cases a' <;> cases h' <;> first | rfl | exact absurd rfl hne

@[simp] theorem Pending.pairDone_clearHalf_self (p : Pending) (h : Half) : (p.clearHalf h).pairDone h = false := by
  cases h <;> rfl

theorem Pending.pairDone_clearHalf_other (p : Pending) {h h' : Half} (hne : h' ≠ h) :
    (p.clearHalf h).pairDone h' = p.pairDone h' := by
  cases h <;> cases h' <;> first | rfl | exact absurd rfl hne

theorem Pending.pairDone_set_other (p : Pending) (a : Adc) {h h' : Half} (hne : h' ≠ h) :
    (p.set a h).pairDone h' = p.pairDone h' := by
  cases a <;> cases h <;> cases h' <;> first | rfl | exact absurd rfl hne

/-! ### MARK -/

theorem resignal_onlyProducerWrites (a : Adc) (h : Half) (s : State) : OnlyProducerWrites s (resignal a h s) := by
  unfold resignal; split <;> rfl

@[simp] theorem resignal_pending (a : Adc) (h : Half) (s : State) : (resignal a h s).pending = s.pending := by
  unfold resignal; split <;> rfl

theorem completePair_onlyProducerWrites (h : Half) (s : State) : OnlyProducerWrites s (completePair h s) := by
  unfold completePair
  split
  · exact OnlyProducerWrites.trans (t := { s with pending := s.pending.clearHalf h }) rfl (pack_onlyProducerWrites _ _)
  · rfl

theorem mark_onlyProducerWrites (a : Adc) (h : Half) (s : State) : OnlyProducerWrites s (mark a h s) :=
  (resignal_onlyProducerWrites a h s).trans
    ((setPending_onlyProducerWrites a h _).trans (completePair_onlyProducerWrites h _))

@[simp] theorem pack_pending (h : Half) (s : State) : (pack h s).pending = s.pending := by
  rw [pack_eq]; split
  · unfold discardHalf; split <;> rfl
  · rfl

/-- What MARK leaves in the pending-pair map (R136). -/
theorem mark_pending (a : Adc) (h : Half) (s : State) :
    (mark a h s).pending =
      if (s.pending.set a h).pairDone h then (s.pending.set a h).clearHalf h else s.pending.set a h := by
  unfold mark completePair
  simp only [setPending_pending, resignal_pending]
  split <;> simp

/-- MARK leaves no half with both bits pending (R140). -/
theorem mark_pairDone (a : Adc) (h h' : Half) (s : State) (hs : ∀ k, s.pending.pairDone k = false) :
    (mark a h s).pending.pairDone h' = false := by
  rw [mark_pending]
  by_cases hh : h' = h
  · subst hh
    split
    · simp
    · rename_i hp; exact Bool.eq_false_iff.mpr hp
  · have := Pending.pairDone_set_other s.pending a hh
    split
    · rw [Pending.pairDone_clearHalf_other _ hh, this, hs]
    · rw [this, hs]

/-! ### Consequences of the frame: fields a producer's step leaves alone -/

section
variable {s t : State} (h : OnlyProducerWrites s t)
include h

theorem OnlyProducerWrites.cfg : t.cfg = s.cfg := by rw [h]
theorem OnlyProducerWrites.life : t.life = s.life := by rw [h]
theorem OnlyProducerWrites.fatalCause : t.fatalCause = s.fatalCause := by rw [h]
theorem OnlyProducerWrites.errCmd : t.errCmd = s.errCmd := by rw [h]
theorem OnlyProducerWrites.buf0 : t.buf0 = s.buf0 := by rw [h]
theorem OnlyProducerWrites.buf1 : t.buf1 = s.buf1 := by rw [h]
theorem OnlyProducerWrites.qRead : t.qRead = s.qRead := by rw [h]
theorem OnlyProducerWrites.packetSequence : t.packetSequence = s.packetSequence := by rw [h]
theorem OnlyProducerWrites.streamIndex : t.streamIndex = s.streamIndex := by rw [h]
theorem OnlyProducerWrites.pcb : t.pcb = s.pcb := by rw [h]
theorem OnlyProducerWrites.sender : t.sender = s.sender := by rw [h]
theorem OnlyProducerWrites.wf : t.wf = s.wf := by rw [h]
theorem OnlyProducerWrites.dmaArmed : t.dmaArmed = s.dmaArmed := by rw [h]
theorem OnlyProducerWrites.dmaPos : t.dmaPos = s.dmaPos := by rw [h]
theorem OnlyProducerWrites.held : t.held = s.held := by rw [h]
theorem OnlyProducerWrites.agenda : t.agenda = s.agenda := by rw [h]
theorem OnlyProducerWrites.oracle : t.oracle = s.oracle := by rw [h]
theorem OnlyProducerWrites.epoch : t.epoch = s.epoch := by rw [h]

theorem OnlyProducerWrites.sameBuffers : SameBuffers s t := fun a i => readSample_congr h.buf0 h.buf1 h.epoch a i

end

/-! ### SMPL -/

/-- Both ADCs' events of one half, ADC0's first (R133). -/
def markBoth (h : Half) (s : State) : State := mark .adc1 h (mark .adc0 h s)

theorem markBoth_onlyProducerWrites (h : Half) (s : State) : OnlyProducerWrites s (markBoth h s) :=
  (mark_onlyProducerWrites .adc0 h s).trans (mark_onlyProducerWrites .adc1 h _)

/-- Everything the clock's events can be: none, the half-transfer's, or the wrap's. Since `S >= 1` they never coincide. -/
theorem clockEvents_eq (p1 : Nat) (s : State) :
    clockEvents p1 s =
      if p1 = s.cfg.S then markBoth .first s
      else if p1 = 2 * s.cfg.S then markBoth .second s
      else s := by
  have := s.cfg.sRange
  unfold clockEvents markBoth
  by_cases h1 : p1 = s.cfg.S
  · rw [if_pos h1, if_neg (by omega), if_pos h1]
  · rw [if_neg h1, if_neg h1]

theorem clockEvents_onlyProducerWrites (p1 : Nat) (s : State) : OnlyProducerWrites s (clockEvents p1 s) := by
  rw [clockEvents_eq]
  split
  · exact markBoth_onlyProducerWrites _ s
  · split
    · exact markBoth_onlyProducerWrites _ s
    · exact OnlyProducerWrites.refl s

end Sys2Proof.Machine
end

