-- ==== Sys2Proof/Laws/Step.lean ====
section
/-! SUPPORT. What one step can do, said once (R15, R16, R275, R340), and the shape of every invariant proof: what every operation
keeps, every step keeps. -/

namespace Sys2Proof.Machine

/-! ### Decoding -/

theorem ifZeroFrom_eq_instr {w : TxnWord} {lo : Nat} {i j : Instr} (h : ifZeroFrom w lo i = .instr j) :
    j = i ∧ w.extractLsb' lo (28 - lo) = 0 := by
  unfold ifZeroFrom at h
  split at h
  · exact ⟨(Decoded.instr.inj h).symm, by assumption⟩
  · cases h

/-- What a word that decodes to an operation looks like (R91, R105). -/
theorem decodeWord_cases {c : Config} {w : TxnWord} {i : Instr} (h : decodeWord c w = .instr i) :
    ((opField w).toNat = 1 ∧ i = .init ∧ w.extractLsb' 0 28 = 0)
      ∨ ((opField w).toNat = 2 ∧ i = .start ∧ w.extractLsb' 0 28 = 0)
      ∨ ((opField w).toNat = 3 ∧ i = .tick ∧ w.extractLsb' 0 28 = 0)
      ∨ ((opField w).toNat = 4 ∧ i = .rstream ∧ w.extractLsb' 0 28 = 0)
      ∨ ((opField w).toNat = 5 ∧ i = .evt (evtAdc w) (evtHalf w) ∧ w.extractLsb' 2 26 = 0)
      ∨ ((opField w).toNat = 6 ∧ i = .dmawr (dmawrAdc w) (dmawrIdx w) (dmawrVal w)
          ∧ (dmawrIdx w).toNat < 2 * c.S)
      ∨ ((opField w).toNat = 7 ∧ i = .rdstat (rdstatReg w) ∧ w.extractLsb' 8 20 = 0) := by
  unfold decodeWord at h
  split at h
  · rename_i hop; exact .inl ⟨hop, ifZeroFrom_eq_instr h⟩
  · rename_i hop; exact .inr (.inl ⟨hop, ifZeroFrom_eq_instr h⟩)
  · rename_i hop; exact .inr (.inr (.inl ⟨hop, ifZeroFrom_eq_instr h⟩))
  · rename_i hop; exact .inr (.inr (.inr (.inl ⟨hop, ifZeroFrom_eq_instr h⟩)))
  · rename_i hop; exact .inr (.inr (.inr (.inr (.inl ⟨hop, ifZeroFrom_eq_instr h⟩))))
  · rename_i hop
    split at h
    · cases h
    · exact .inr (.inr (.inr (.inr (.inr (.inl ⟨hop, (Decoded.instr.inj h).symm, by omega⟩)))))
  · rename_i hop; exact .inr (.inr (.inr (.inr (.inr (.inr ⟨hop, ifZeroFrom_eq_instr h⟩)))))
  · cases h

/-- What a code that decodes to an operation looks like (R99). -/
theorem decodeLabel_cases {code : BitVec 8} {x : Args} {i : Instr} (h : decodeLabel code x = .instr i) :
    (code.toNat = 0x81 ∧ i = .smpl x.v0 x.v1) ∨ (code.toNat = 0x82 ∧ i = .mark x.adc x.half)
      ∨ (code.toNat = 0x83 ∧ i = .pack x.half) ∨ (code.toNat = 0x84 ∧ i = .push x.frame)
      ∨ (code.toNat = 0x85 ∧ i = .pop) ∨ (code.toNat = 0x86 ∧ i = .send)
      ∨ (code.toNat = 0x87 ∧ i = .lraise x.kind) ∨ (code.toNat = 0x88 ∧ i = .fatal x.cause) := by
  unfold decodeLabel at h
  split at h <;> first
    | (rename_i hc; have h := (Decoded.instr.inj h).symm; simp [hc, h])
    | cases h

/-! ### Operations the spec's agents take as steps -/

/-- An operation that is a step of its own for the spec's agents under these parameters (R99, R131, R132). -/
def lawfulInstr (c : Config) : Instr → Bool
  | .init | .start | .tick | .rstream | .rdstat _ | .pop | .send => true
  | .evt _ _ | .dmawr _ _ _ => c.dmaEnv == .free
  | .smpl _ _ => c.dmaEnv == .lockstep
  | .mark _ _ | .pack _ | .push _ | .lraise _ | .fatal _ => false

theorem lawfulInstr_of_turn {c : Config} {code : Code} {i : Instr} (hl : Turn.lawful c (.issue code) = true)
    (hd : decode c code = .instr i) : lawfulInstr c i = true := by
  cases code with
  | word w =>
    simp only [Turn.lawful, isDmaWord, Bool.or_eq_true, Bool.not_eq_true', Bool.or_eq_false_iff] at hl
    rcases decodeWord_cases hd with ⟨ho, rfl, _⟩ | ⟨ho, rfl, _⟩ | ⟨ho, rfl, _⟩ | ⟨ho, rfl, _⟩ | ⟨ho, rfl, _⟩ | ⟨ho, rfl, _⟩
      | ⟨ho, rfl, _⟩ <;> try rfl
    all_goals
      rcases hl with hl | ⟨h5, h6⟩
      · exact hl
      · rw [beq_eq_false_iff_ne] at h5 h6
        first
          | exact absurd (BitVec.eq_of_toNat_eq ho) h5
          | exact absurd (BitVec.eq_of_toNat_eq ho) h6
  | label k x =>
    simp only [Turn.lawful, Bool.or_eq_true, Bool.and_eq_true, beq_iff_eq] at hl
    rcases hl with (rfl | rfl) | ⟨rfl, hl⟩
    · cases hd; rfl
    · cases hd; rfl
    · cases hd; simpa [lawfulInstr] using hl

theorem lawfulInstr_of_foreground {c : Config} {w : TxnWord} {i : Instr} (hw : isForegroundWord w = true)
    (hd : decode c (.word w) = .instr i) : lawfulInstr c i = true := by
  simp only [isForegroundWord, Bool.and_eq_true, decide_eq_true_eq] at hw
  rcases decodeWord_cases hd with ⟨_, rfl, _⟩ | ⟨_, rfl, _⟩ | ⟨_, rfl, _⟩ | ⟨_, rfl, _⟩ | ⟨ho, _⟩ | ⟨ho, _⟩ | ⟨ho, _⟩
  all_goals first
    | rfl
    | omega

/-! ### Taking a turn -/

theorem step_of_nil {s : State} (h : s.agenda = []) : step s = .next s := by simp [step, h]

theorem step_of_cons {s : State} {t : Turn} {rest : List Turn} (h : s.agenda = t :: rest) :
    step s = takeTurn t { s with agenda := rest } := by simp [step, h]

theorem accept_of_instr {c : Code} {s : State} {i : Instr} (h : decode s.cfg c = .instr i) : accept c s = exec i s := by
  simp [accept, h]

theorem accept_word_of_illegal {w : TxnWord} {s : State} {r : RejectReason} (h : decode s.cfg (.word w) = .illegal r) :
    accept (.word w) s = .next (rejectIllegal w r s) := by simp [accept, h]

/-- An illegal reason comes from a word only (R99, R105). -/
theorem decodeLabel_ne_illegal (code : BitVec 8) (x : Args) (r : RejectReason) : decodeLabel code x ≠ .illegal r := by
  unfold decodeLabel; split <;> simp

/-- Everything presenting a code can lead to: the operation it decodes to, a rejection, or a wait. -/
theorem accept_next {c : Code} {s t : State} (h : accept c s = .next t) :
    (∃ i, decode s.cfg c = .instr i ∧ exec i s = .next t)
      ∨ (∃ w r, c = .word w ∧ t = reject w r s)
      ∨ (∃ w, c = .word w ∧ isForegroundWord w = true ∧ holding s = true ∧ t = hold w s) := by
  unfold accept at h
  split at h
  · rename_i i hi; exact .inl ⟨i, hi, h⟩
  · rename_i r hr
    cases c with
    | word w =>
      simp only [Host.Outcome.next.injEq] at h
      subst h
      unfold rejectIllegal
      split
      · rename_i hc
        simp only [Bool.and_eq_true] at hc
        exact .inr (.inr ⟨w, rfl, hc.1, hc.2, rfl⟩)
      · exact .inr (.inl ⟨w, r, rfl, rfl⟩)
    | label code x => exact absurd hr (decodeLabel_ne_illegal code x r)
  · cases h

/-- Everything one step can do. The turn is used up first, and a waiting word is taken off its list before it is presented. -/
theorem step_next {s t : State} (h : step s = .next t) :
    (s.agenda = [] ∧ t = s)
      ∨ ∃ turn rest, s.agenda = turn :: rest ∧
        ((∃ c, turn = .issue c ∧ accept c { s with agenda := rest } = .next t)
          ∨ (turn = .resume ∧ (s.held = [] ∨ holding s = true) ∧ t = { s with agenda := rest })
          ∨ (∃ w ws, turn = .resume ∧ s.held = w :: ws ∧ holding s = false
              ∧ accept (.word w) { s with agenda := rest, held := ws } = .next t)
          ∨ (turn = .powerOn ∧ t = powerOnReset { s with agenda := rest })) := by
  cases ha : s.agenda with
  | nil => rw [step_of_nil ha] at h; cases h; exact .inl ⟨rfl, rfl⟩
  | cons turn rest =>
    rw [step_of_cons ha] at h
    refine .inr ⟨turn, rest, rfl, ?_⟩
    cases turn with
    | issue c => exact .inl ⟨c, rfl, h⟩
    | powerOn => cases h; exact .inr (.inr (.inr ⟨rfl, rfl⟩))
    | resume =>
      simp only [takeTurn, resumeForeground] at h
      split at h
      · cases h; exact .inr (.inl ⟨rfl, .inl (by assumption), rfl⟩)
      · rename_i w ws hw
        split at h
        · rename_i hh; cases h; exact .inr (.inl ⟨rfl, .inr hh, rfl⟩)
        · rename_i hh
          exact .inr (.inr (.inl ⟨w, ws, rfl, hw, Bool.eq_false_iff.mpr hh, h⟩))

/-- The induction behind every invariant: what the bookkeeping of a step and every operation keeps, every step keeps. -/
theorem step_keeps {P : State → Prop}
    (bookkeeping : ∀ s ag ws, P s → P { s with agenda := ag, held := ws })
    (rejected : ∀ w r s, P s → P (reject w r s))
    (reset : ∀ s, P s → P (powerOnReset s))
    (operation : ∀ i s t, P s → exec i s = .next t → P t)
    {s t : State} (hs : P s) (h : step s = .next t) : P t := by
  have hacc : ∀ c u, P u → accept c u = .next t → P t := by
    intro c u hu ha
    rcases accept_next ha with ⟨i, _, hi⟩ | ⟨w, r, _, rfl⟩ | ⟨w, _, _, _, rfl⟩
    · exact operation i u t hu hi
    · exact rejected w r u hu
    · exact bookkeeping u u.agenda (u.held ++ [w]) hu
  rcases step_next h with ⟨_, rfl⟩ | ⟨turn, rest, _, hcase⟩
  · exact hs
  · rcases hcase with ⟨c, _, ha⟩ | ⟨_, _, rfl⟩ | ⟨w, ws, _, _, _, ha⟩ | ⟨_, rfl⟩
    · exact hacc c _ (bookkeeping s rest s.held hs) ha
    · exact bookkeeping s rest s.held hs
    · exact hacc _ _ (bookkeeping s rest ws hs) ha
    · exact reset _ (bookkeeping s rest s.held hs)

/-- The same where the turns are the spec's: only the operations that are steps of their own count. -/
theorem step_keeps_lawful {P : State → Prop}
    (bookkeeping : ∀ s ag ws, P s → P { s with agenda := ag, held := ws })
    (rejected : ∀ w r s, P s → P (reject w r s))
    (reset : ∀ s, P s → P (powerOnReset s))
    (operation : ∀ i s t, lawfulInstr s.cfg i = true → P s → exec i s = .next t → P t)
    {s t : State} (hl : Lawful s) (hs : P s) (h : step s = .next t) : P t := by
  have hacc : ∀ c u, (∀ i, decode u.cfg c = .instr i → lawfulInstr u.cfg i = true) → P u →
      accept c u = .next t → P t := by
    intro c u hlc hu ha
    rcases accept_next ha with ⟨i, hd, hi⟩ | ⟨w, r, _, rfl⟩ | ⟨w, _, _, _, rfl⟩
    · exact operation i u t (hlc i hd) hu hi
    · exact rejected w r u hu
    · exact bookkeeping u u.agenda (u.held ++ [w]) hu
  obtain ⟨hagenda, hheld⟩ := hl
  rcases step_next h with ⟨_, rfl⟩ | ⟨turn, rest, hag, hcase⟩
  · exact hs
  · rw [hag, List.all_cons, Bool.and_eq_true] at hagenda
    rcases hcase with ⟨c, rfl, ha⟩ | ⟨_, _, rfl⟩ | ⟨w, ws, _, hw, _, ha⟩ | ⟨_, rfl⟩
    · exact hacc c { s with agenda := rest } (fun i hd => lawfulInstr_of_turn hagenda.1 hd)
        (bookkeeping s rest s.held hs) ha
    · exact bookkeeping s rest s.held hs
    · rw [hw, List.all_cons, Bool.and_eq_true] at hheld
      exact hacc (.word w) { s with agenda := rest, held := ws }
        (fun i hd => lawfulInstr_of_foreground hheld.1 hd) (bookkeeping s rest ws hs) ha
    · exact reset _ (bookkeeping s rest s.held hs)

/-- Everything a step of lawful turns can do to two states, for a relation `R` between the state before and the one after: no
turn, bookkeeping alone, a rejection, a word held, an operation that is a step of its own, or a power-on. -/
theorem step_cases_lawful {R : State → State → Prop} {s t : State} (hl : Lawful s) (h : step s = .next t)
    (idle : s.agenda = [] → R s s)
    (used : ∀ ws, s.agenda.head? ≠ some .powerOn → R s { s with agenda := s.agenda.tail, held := ws })
    (rejected : ∀ ws w r, s.agenda.head? ≠ some .powerOn →
      R s (reject w r { s with agenda := s.agenda.tail, held := ws }))
    (waits : ∀ ws w, s.agenda.head? ≠ some .powerOn → holding s = true → isForegroundWord w = true →
      R s (hold w { s with agenda := s.agenda.tail, held := ws }))
    (operation : ∀ ws i, s.agenda.head? ≠ some .powerOn → lawfulInstr s.cfg i = true →
      exec i { s with agenda := s.agenda.tail, held := ws } = .next t → R s t)
    (reset : s.agenda.head? = some .powerOn → R s (powerOnReset { s with agenda := s.agenda.tail })) : R s t := by
  rcases step_next h with ⟨hn, rfl⟩ | ⟨turn, rest, hag, hcase⟩
  · exact idle hn
  · obtain ⟨h1, h2⟩ := hl
    rw [hag, List.all_cons, Bool.and_eq_true] at h1
    have htail : rest = s.agenda.tail := by rw [hag]; rfl
    subst htail
    rcases hcase with ⟨c, rfl, ha⟩ | ⟨rfl, _, rfl⟩ | ⟨w, ws, rfl, hw, _, ha⟩ | ⟨rfl, rfl⟩
    · have hh : s.agenda.head? ≠ some .powerOn := by rw [hag]; simp
      rcases accept_next ha with ⟨i, hd, hi⟩ | ⟨w, r, _, rfl⟩ | ⟨w, _, hf, hho, rfl⟩
      · exact operation s.held i hh (lawfulInstr_of_turn h1.1 hd) hi
      · exact rejected s.held w r hh
      · exact waits s.held w hh hho hf
    · exact used s.held (by rw [hag]; simp)
    · have hh : s.agenda.head? ≠ some .powerOn := by rw [hag]; simp
      rw [hw, List.all_cons, Bool.and_eq_true] at h2
      rcases accept_next ha with ⟨i, hd, hi⟩ | ⟨w, r, _, rfl⟩ | ⟨w, _, hf, hho, rfl⟩
      · exact operation ws i hh (lawfulInstr_of_foreground h2.1 hd) hi
      · exact rejected ws w r hh
      · exact waits ws w hh hho hf
    · exact reset (by rw [hag]; rfl)

end Sys2Proof.Machine
end

