-- ==== Sys2Proof/Laws/Foreground.lean ====
section
/-! SUPPORT. What the foreground's commands and the status read can do, said once (R220, R232, R271–R273), and what no operation
writes (R42). -/

namespace Sys2Proof.Machine

/-- `t` differs from `s` at most in what INIT, START, TICK, RSTREAM and RDSTAT write (R40), in the host's answers used up, and in
the words that wait. The buffers, the queue and `wf` are not among them. -/
def OnlyForegroundWrites (s t : State) : Prop :=
  t = { s with
    life := t.life
    fatalCause := t.fatalCause
    errCmd := t.errCmd
    dropLatch := t.dropLatch
    pending := t.pending
    nextSampleIdx := t.nextSampleIdx
    packetSequence := t.packetSequence
    streamIndex := t.streamIndex
    pcb := t.pcb
    sender := t.sender
    dmaArmed := t.dmaArmed
    dmaPos := t.dmaPos
    history := t.history
    held := t.held
    oracle := t.oracle }

theorem foreground_onlyForegroundWrites (w : TxnWord) (f : State → State) (s : State)
    (h : OnlyForegroundWrites s (f s)) : OnlyForegroundWrites s (foreground w f s) := by
  rcases foreground_cases w f s with ⟨_, h'⟩ | ⟨_, h'⟩ <;> rw [h']
  · rfl
  · exact h

theorem startCalls_onlyForegroundWrites (s : State) : OnlyForegroundWrites s (startCalls s) := by
  unfold startCalls
  dsimp only
  split
  · rfl
  · split
    · rfl
    · split
      · rfl
      · unfold running; split <;> rfl

theorem connectStream_onlyForegroundWrites (h : Handle) (s : State) : OnlyForegroundWrites s (connectStream h s) := by
  unfold connectStream
  dsimp only
  split <;> rfl

theorem OnlyForegroundWrites.trans {s t u : State} (h1 : OnlyForegroundWrites s t) (h2 : OnlyForegroundWrites t u) :
    OnlyForegroundWrites s u := by
  unfold OnlyForegroundWrites at *
  rw [h2, h1]

theorem resetStream_onlyForegroundWrites (s : State) : OnlyForegroundWrites s (resetStream s) := by
  have ht : OnlyForegroundWrites s (tearDown s) := by rw [tearDown_eq]; rfl
  unfold resetStream
  dsimp only
  split
  · exact ht.trans rfl
  · exact ht.trans (OnlyForegroundWrites.trans (t := callUdpNew (tearDown s)) rfl
      (connectStream_onlyForegroundWrites _ _))

theorem exec_foreground {i : Instr} {s t : State}
    (hi : i = .init ∨ i = .start ∨ i = .tick ∨ i = .rstream ∨ ∃ reg, i = .rdstat reg) (h : exec i s = .next t) :
    OnlyForegroundWrites s t := by
  rcases hi with rfl | rfl | rfl | rfl | ⟨reg, rfl⟩ <;> cases h
  · exact foreground_onlyForegroundWrites _ _ _ (by split <;> rfl)
  · refine foreground_onlyForegroundWrites _ _ _ ?_
    split
    · exact startCalls_onlyForegroundWrites s
    · rfl
  · exact foreground_onlyForegroundWrites _ _ _ (by split <;> rfl)
  · refine foreground_onlyForegroundWrites _ _ _ ?_
    split
    · exact resetStream_onlyForegroundWrites s
    · rfl
  · split <;> rfl

section
variable {s t : State} (h : OnlyForegroundWrites s t)
include h

theorem OnlyForegroundWrites.cfg : t.cfg = s.cfg := by rw [h]
theorem OnlyForegroundWrites.buf0 : t.buf0 = s.buf0 := by rw [h]
theorem OnlyForegroundWrites.buf1 : t.buf1 = s.buf1 := by rw [h]
theorem OnlyForegroundWrites.qRead : t.qRead = s.qRead := by rw [h]
theorem OnlyForegroundWrites.qWrite : t.qWrite = s.qWrite := by rw [h]
theorem OnlyForegroundWrites.slots : t.slots = s.slots := by rw [h]
theorem OnlyForegroundWrites.wf : t.wf = s.wf := by rw [h]
theorem OnlyForegroundWrites.agenda : t.agenda = s.agenda := by rw [h]
theorem OnlyForegroundWrites.epoch : t.epoch = s.epoch := by rw [h]

end

/-! ### What no operation writes -/

/-- No operation writes a parameter (R42), the coming turns, or the count of power-on resets. -/
theorem exec_fixed {i : Instr} {s t : State} (h : exec i s = .next t) :
    t.cfg = s.cfg ∧ t.agenda = s.agenda ∧ t.epoch = s.epoch := by
  have producer : ∀ {u : State}, OnlyProducerWrites s u → u.cfg = s.cfg ∧ u.agenda = s.agenda ∧ u.epoch = s.epoch :=
    fun hu => ⟨hu.cfg, hu.agenda, hu.epoch⟩
  have consumer : ∀ {u : State}, OnlyConsumerWrites s u → u.cfg = s.cfg ∧ u.agenda = s.agenda ∧ u.epoch = s.epoch :=
    fun hu => ⟨hu.cfg, hu.agenda, hu.epoch⟩
  have commands : OnlyForegroundWrites s t → t.cfg = s.cfg ∧ t.agenda = s.agenda ∧ t.epoch = s.epoch :=
    fun ht => ⟨ht.cfg, ht.agenda, ht.epoch⟩
  cases i with
  | init => exact commands (exec_foreground (.inl rfl) h)
  | start => exact commands (exec_foreground (.inr (.inl rfl)) h)
  | tick => exact commands (exec_foreground (.inr (.inr (.inl rfl))) h)
  | rstream => exact commands (exec_foreground (.inr (.inr (.inr (.inl rfl)))) h)
  | rdstat reg => exact commands (exec_foreground (.inr (.inr (.inr (.inr ⟨reg, rfl⟩)))) h)
  | evt a k =>
    cases h
    split
    · exact producer ((mark_onlyProducerWrites a k s).trans rfl)
    · exact ⟨rfl, rfl, rfl⟩
  | dmawr a idx val =>
    cases h
    split
    · cases a <;> exact ⟨rfl, rfl, rfl⟩
    · exact ⟨rfl, rfl, rfl⟩
  | smpl v0 v1 =>
    simp only [exec, execSmpl] at h
    split at h
    · split at h
      · cases h
        have hc := clockEvents_onlyProducerWrites (s.dmaPos + 1) (writePair v0 v1 s)
        exact ⟨hc.cfg, hc.agenda, hc.epoch⟩
      · cases h
    · cases h; exact ⟨rfl, rfl, rfl⟩
  | mark a k => cases h; exact producer (mark_onlyProducerWrites a k s)
  | pack k => cases h; exact producer (pack_onlyProducerWrites k s)
  | push f => cases h; exact producer (publish_onlyProducerWrites f s)
  | pop =>
    cases h
    split
    · exact consumer (popStep_onlyConsumerWrites s)
    · exact ⟨rfl, rfl, rfl⟩
  | send =>
    cases h
    split
    · exact consumer (sendStep_onlyConsumerWrites s)
    · exact ⟨rfl, rfl, rfl⟩
  | lraise k => cases h; exact ⟨rfl, rfl, rfl⟩
  | fatal cause => cases h; exact ⟨rfl, rfl, rfl⟩

end Sys2Proof.Machine
end

