-- ==== Sys2Proof/Laws/History.lean ====
section
/-! SUPPORT. What operations add to the history (R50), said once, and how a law about a history is kept when an event is
added. -/

namespace Sys2Proof.Machine

/-! ### One event more -/

/-- Where an event stands in a history that has one event more: last, or where it stood before. -/
theorem snoc_split {α : Type} {h before after : List α} {e x : α} (hh : h ++ [e] = before ++ x :: after) :
    (after = [] ∧ before = h ∧ x = e) ∨ ∃ after', after = after' ++ [e] ∧ h = before ++ x :: after' := by
  rcases List.eq_nil_or_concat after with rfl | ⟨a', y, rfl⟩
  · left
    have := List.append_inj' hh rfl
    simp_all
  · right
    have h2 : h ++ [e] = (before ++ x :: a') ++ [y] := by rw [hh]; simp
    have := List.append_inj' h2 rfl
    simp_all

theorem raisedSince_snoc (h : List Event) (e : Event) : raisedSince (h ++ [e]) = latchStep (raisedSince h) e := by
  simp [raisedSince]

theorem indexAfter_snoc (c : Config) (h : List Event) (e : Event) :
    indexAfter c (h ++ [e]) = indexStep c (indexAfter c h) e := by
  simp [indexAfter]

theorem sequenceAfter_snoc (c : Config) (h : List Event) (e : Event) :
    sequenceAfter c (h ++ [e]) = sequenceStep c (sequenceAfter c h) e := by
  simp [sequenceAfter]

/-! ### What an operation adds -/

/-- `t`'s history is `s`'s with events added that all meet `q`. -/
def Adds (q : Event → Bool) (s t : State) : Prop := ∃ new, t.history = s.history ++ new ∧ new.all q = true

theorem Adds.refl (q : Event → Bool) (s : State) : Adds q s s := ⟨[], by simp, rfl⟩

theorem Adds.trans {q : Event → Bool} {s t u : State} (h1 : Adds q s t) (h2 : Adds q t u) : Adds q s u := by
  obtain ⟨a, ha, qa⟩ := h1
  obtain ⟨b, hb, qb⟩ := h2
  exact ⟨a ++ b, by rw [hb, ha, List.append_assoc], by rw [List.all_append, qa, qb]; rfl⟩

theorem Adds.mono {q q' : Event → Bool} {s t : State} (h : Adds q s t) (hq : ∀ e, q e = true → q' e = true) :
    Adds q' s t := by
  obtain ⟨a, ha, qa⟩ := h
  exact ⟨a, ha, List.all_eq_true.mpr fun e he => hq e (List.all_eq_true.mp qa e he)⟩

theorem Adds.recorded {q : Event → Bool} {s t : State} {e : Event} (he : q e = true) (h : Adds q s t) :
    Adds q s (record e t) :=
  h.trans ⟨[e], rfl, by simp [he]⟩

/-- An event START may record (R272). -/
def isStartEvent : Event → Bool
  | .host (.dmaStart _) _ | .host .timerStart _ | .fatal _ | .txn _ _ => true
  | _ => false

theorem startCalls_adds (s : State) : Adds isStartEvent s (startCalls s) := by
  have h0 : Adds isStartEvent s (callBool (.dmaStart .adc0) s) := Adds.recorded rfl (Adds.refl _ s)
  have h1 : Adds isStartEvent s (callBool (.dmaStart .adc1) (callBool (.dmaStart .adc0) s)) := Adds.recorded rfl h0
  have h2 : Adds isStartEvent s (callBool .timerStart (callBool (.dmaStart .adc1) (callBool (.dmaStart .adc0) s))) :=
    Adds.recorded rfl h1
  have fails : ∀ {cause t}, Adds isStartEvent s t → Adds isStartEvent s (startFails cause t) := fun h =>
    Adds.recorded rfl (Adds.recorded rfl h)
  unfold startCalls
  dsimp only
  split
  · exact fails h0
  · split
    · exact fails h1
    · split
      · exact fails h2
      · unfold running
        split <;> exact Adds.recorded rfl h2

/-- An event RSTREAM may record (R232). -/
def isStreamEvent : Event → Bool
  | .host (.pcbRelease _) _ | .host .udpNew _ | .host (.udpConnect _ _ _) _ | .fatal _ | .txn _ _ => true
  | _ => false

theorem tearDown_adds (s : State) : Adds isStreamEvent s (tearDown s) := by
  unfold tearDown
  dsimp only
  split
  · exact Adds.recorded rfl (Adds.refl _ s)
  · exact Adds.refl _ s

theorem connectStream_adds (h : Handle) (s : State) : Adds isStreamEvent s (connectStream h s) := by
  have h0 : Adds isStreamEvent s (callBool (.udpConnect h s.cfg.destIp s.cfg.destPort) s) :=
    Adds.recorded rfl (Adds.refl _ s)
  unfold connectStream
  dsimp only
  split
  · exact Adds.recorded rfl h0
  · exact Adds.recorded rfl (Adds.recorded rfl (Adds.recorded rfl h0))

theorem resetStream_adds (s : State) : Adds isStreamEvent s (resetStream s) := by
  have h0 : Adds isStreamEvent s (callUdpNew (tearDown s)) := Adds.recorded rfl (tearDown_adds s)
  unfold resetStream
  dsimp only
  split
  · exact Adds.recorded rfl (Adds.recorded rfl h0)
  · exact h0.trans (connectStream_adds _ _)

/-- An event the producer may record (R136, R160, R196). -/
def isProducerEvent : Event → Bool
  | .drop .resignal | .drop .queueFull | .published _ _ _ => true
  | _ => false

theorem publish_adds (f : Frame) (s : State) : Adds isProducerEvent s (publish f s) := by
  cases h : queueFull s
  · rw [publish_of_not_full f s h]
    exact Adds.recorded rfl (Adds.refl _ s)
  · rw [publish_of_full f s h]
    exact Adds.refl _ s

theorem pack_adds (h : Half) (s : State) : Adds isProducerEvent s (pack h s) := by
  rw [pack_eq]
  split
  · unfold discardHalf
    split <;> exact Adds.recorded rfl (Adds.refl _ s)
  · exact Adds.recorded rfl (Adds.refl _ s)

theorem mark_adds (a : Adc) (h : Half) (s : State) : Adds isProducerEvent s (mark a h s) := by
  have h0 : Adds isProducerEvent s (resignal a h s) := by
    unfold resignal
    split
    · exact Adds.recorded rfl (Adds.refl _ s)
    · exact Adds.refl _ s
  unfold mark completePair
  split
  · exact Adds.trans (t := resignal a h s) h0 (pack_adds h _)
  · exact h0

theorem clockEvents_adds (p1 : Nat) (s : State) : Adds isProducerEvent s (clockEvents p1 s) := by
  rw [clockEvents_eq]
  split
  · exact (mark_adds .adc0 .first s).trans (mark_adds .adc1 .first _)
  · split
    · exact (mark_adds .adc0 .second s).trans (mark_adds .adc1 .second _)
    · exact Adds.refl _ s

/-- An event SEND may record (R222). -/
def isSendEvent : Event → Bool
  | .host (.alloc _) _ | .host (.send _ _) _ | .host (.free _) _ | .datagram _ _ => true
  | .drop .invalidFrame | .drop .allocFail | .drop .sendFail => true
  | _ => false

theorem sendStep_adds (s : State) : Adds isSendEvent s (sendStep s) := by
  cases hv : frameSendable s
  · rw [sendStep_of_invalid s hv]
    exact Adds.recorded rfl (Adds.refl _ s)
  · obtain ⟨p, hp⟩ := frameSendable_pcb hv
    rw [sendStep_of_sendable s hv hp]
    cases ha : answerAt s 0
    · rw [sendFrame_of_no_alloc p { s with sender := .draining } ha]
      exact Adds.recorded rfl (Adds.recorded rfl (Adds.refl _ s))
    · rw [sendFrame_of_alloc p { s with sender := .draining } ha]
      refine ⟨_, List.append_assoc _ _ _, ?_⟩
      rw [List.all_append]
      show (true && _) = true
      split <;> rfl

end Sys2Proof.Machine
end

