-- ==== Sys2Proof/Laws/PerInstr.lean ====
section
/-! SUPPORT. Statements made once for each instruction. `EncodingClass`: an instruction's encoding lies in its own row of the
opcode table (spec/opcode_table.json), and in no other. -/

namespace Sys2Proof.Laws.EncodingClass

open Sys2Proof.Machine

/-- A row of the opcode table: the encodings `w` with `w AND mask = match`, in words (format T) or internal codes (INT8). -/
inductive Row where
  | word (pattern mask : BitVec 32)
  | label (code : BitVec 8)
  deriving DecidableEq, Repr

/-- Whether an encoding lies in a row. -/
def inRow (r : Row) (c : Code) : Prop :=
  match r, c with
  | Row.word pattern mask, Code.word w => w &&& mask = pattern
  | Row.label code, Code.label k _ => k = code
  | Row.word _ _, Code.label _ _ => False
  | Row.label _, Code.word _ => False

/-- The rows of the opcode table, in its order. -/
def rows : List Row :=
  [.word 0x10000000 0xFFFFFFFF, .word 0x20000000 0xFFFFFFFF, .word 0x30000000 0xFFFFFFFF,
    .word 0x40000000 0xFFFFFFFF, .word 0x50000000 0xFFFFFFFC, .word 0x60000000 0xF0000000,
    .word 0x70000000 0xFFFFFF00]
    ++ [.label 0x81, .label 0x82, .label 0x83, .label 0x84, .label 0x85, .label 0x86, .label 0x87, .label 0x88]

/-- The number of an instruction's row. -/
def rowNumber : Instr → Nat
  | .init => 0
  | .start => 1
  | .tick => 2
  | .rstream => 3
  | .evt _ _ => 4
  | .dmawr _ _ _ => 5
  | .rdstat _ => 6
  | .smpl _ _ => 7
  | .mark _ _ => 8
  | .pack _ => 9
  | .push _ => 10
  | .pop => 11
  | .send => 12
  | .lraise _ => 13
  | .fatal _ => 14

/-- An instruction's encoding lies in its own row and in no other. -/
def Statement (i : Instr) : Prop :=
  ∀ k row, rows[k]? = some row → (inRow row (encode i) ↔ k = rowNumber i)

/-! ### Words -/

/-- A word in a row whose mask covers `OP` has that row's `OP`. -/
theorem op_of_and {w pattern mask : BitVec 32} (h : w &&& mask = pattern) (hm : mask.extractLsb' 28 4 = 0xF) :
    w.extractLsb' 28 4 = pattern.extractLsb' 28 4 := by
  rw [← h]
  apply BitVec.eq_of_getLsbD_eq
  intro i hi
  have hb : (mask.extractLsb' 28 4).getLsbD i = true := by
    rw [hm]
    obtain rfl | rfl | rfl | rfl : i = 0 ∨ i = 1 ∨ i = 2 ∨ i = 3 := by omega
    all_goals rfl
  simp only [BitVec.getLsbD_extractLsb', hi, decide_true, Bool.true_and] at hb ⊢
  rw [BitVec.getLsbD_and, hb, Bool.and_true]

/-- Where only the masked bits of a word matter, they are quotients. -/
theorem and_eq_of_div {w pattern : BitVec 32} {n : Nat} (hn : n ≤ 32)
    (h : w.toNat / 2 ^ n = pattern.toNat / 2 ^ n) (hp : pattern.toNat % 2 ^ n = 0) :
    w &&& (BitVec.allOnes 32 <<< n) = pattern := by
  apply BitVec.eq_of_getLsbD_eq
  intro i hi
  rw [BitVec.getLsbD_and, BitVec.getLsbD_shiftLeft, BitVec.getLsbD_allOnes]
  by_cases hlt : i < n
  · have hz : pattern.getLsbD i = false := by
      rw [BitVec.getLsbD, ← Nat.div_add_mod pattern.toNat (2 ^ n), hp, Nat.add_zero, Nat.testBit_two_pow_mul]
      simp
      omega
    simp [hlt, hz]
  · have hw : w.getLsbD i = pattern.getLsbD i := by
      have e : ∀ x : Nat, x.testBit i = (x / 2 ^ n).testBit (i - n) := by
        intro x
        rw [← Nat.shiftRight_eq_div_pow, Nat.testBit_shiftRight]
        congr 1
        omega
      rw [BitVec.getLsbD, BitVec.getLsbD, e, e, h]
    rw [hw]
    simp [hlt, hi]
    intro _
    omega

/-! ### One lemma for each constructor -/

/-- Every row with its number, taken apart. -/
theorem rows_cases {k : Nat} {row : Row} (h : rows[k]? = some row) :
    (k = 0 ∧ row = .word 0x10000000 0xFFFFFFFF) ∨ (k = 1 ∧ row = .word 0x20000000 0xFFFFFFFF)
      ∨ (k = 2 ∧ row = .word 0x30000000 0xFFFFFFFF) ∨ (k = 3 ∧ row = .word 0x40000000 0xFFFFFFFF)
      ∨ (k = 4 ∧ row = .word 0x50000000 0xFFFFFFFC) ∨ (k = 5 ∧ row = .word 0x60000000 0xF0000000)
      ∨ (k = 6 ∧ row = .word 0x70000000 0xFFFFFF00)
      ∨ (7 ≤ k ∧ k ≤ 14 ∧ row = .label (BitVec.ofNat 8 (0x81 + (k - 7)))) := by
  have hk : k < 15 := by
    obtain ⟨hlt, -⟩ := List.getElem?_eq_some_iff.mp h
    exact hlt
  obtain rfl | rfl | rfl | rfl | rfl | rfl | rfl | rfl | rfl | rfl | rfl | rfl | rfl | rfl | rfl :
      k = 0 ∨ k = 1 ∨ k = 2 ∨ k = 3 ∨ k = 4 ∨ k = 5 ∨ k = 6 ∨ k = 7 ∨ k = 8 ∨ k = 9 ∨ k = 10 ∨ k = 11 ∨ k = 12
        ∨ k = 13 ∨ k = 14 := by omega
  all_goals
    cases h
    decide

/-- A word lies in row `n` alone, if it does and its `OP` is `n + 1`. -/
theorem word_statement {w : TxnWord} {n : Nat} (hn : n ≤ 6) (hop : (w.extractLsb' 28 4).toNat = n + 1)
    (hin : ∀ row, rows[n]? = some row → inRow row (.word w)) (k : Nat) (row : Row) (h : rows[k]? = some row) :
    inRow row (.word w) ↔ k = n := by
  constructor
  · intro hr
    obtain ⟨rfl, rfl⟩ | ⟨rfl, rfl⟩ | ⟨rfl, rfl⟩ | ⟨rfl, rfl⟩ | ⟨rfl, rfl⟩ | ⟨rfl, rfl⟩ | ⟨rfl, rfl⟩ | ⟨-, -, rfl⟩ :=
      rows_cases h
    all_goals first
      | (have e := congrArg BitVec.toNat (op_of_and hr (by decide)); simp at e hop; omega)
      | exact hr.elim
  · rintro rfl
    exact hin row h

/-- A label lies in the row of its code alone. -/
theorem label_statement {n : Nat} (x : Args) (h7 : 7 ≤ n) (h14 : n ≤ 14) (k : Nat) (row : Row)
    (h : rows[k]? = some row) : inRow row (.label (BitVec.ofNat 8 (0x81 + (n - 7))) x) ↔ k = n := by
  obtain ⟨rfl, rfl⟩ | ⟨rfl, rfl⟩ | ⟨rfl, rfl⟩ | ⟨rfl, rfl⟩ | ⟨rfl, rfl⟩ | ⟨rfl, rfl⟩ | ⟨rfl, rfl⟩ | ⟨hk, hk', rfl⟩ :=
    rows_cases h
  case inr.inr.inr.inr.inr.inr.inr =>
    constructor
    · intro hr
      have := congrArg BitVec.toNat (show BitVec.ofNat 8 _ = BitVec.ofNat 8 _ from hr)
      simp at this
      omega
    · rintro rfl
      rfl
  all_goals exact ⟨fun hr => hr.elim, fun hk => by omega⟩

theorem init : Statement .init := word_statement (n := 0) (by omega) rfl (fun _ h => by cases h; rfl)
theorem start : Statement .start := word_statement (n := 1) (by omega) rfl (fun _ h => by cases h; rfl)
theorem tick : Statement .tick := word_statement (n := 2) (by omega) rfl (fun _ h => by cases h; rfl)
theorem rstream : Statement .rstream := word_statement (n := 3) (by omega) rfl (fun _ h => by cases h; rfl)

theorem evt (a : Adc) (h : Half) : Statement (.evt a h) := by
  cases a <;> cases h <;>
    exact word_statement (n := 4) (by omega) rfl (fun _ h => by cases h; rfl)

theorem dmawr (a : Adc) (idx : BitVec 11) (val : Sample) : Statement (.dmawr a idx val) := by
  have hi := idx.isLt
  have hv := val.isLt
  have ha : adcNumber a ≤ 1 := by cases a <;> decide
  have hw := dmawrWord_toNat a idx val
  refine word_statement (n := 5) (by omega) ?_ (fun _ h => ?_)
  · rw [extract_toNat, hw]
    omega
  · cases h
    exact and_eq_of_div (n := 28) (by omega) (by rw [hw]; simp; omega) rfl

theorem rdstat (reg : BitVec 8) : Statement (.rdstat reg) := by
  have hr := reg.isLt
  have hw := rdstatWord_toNat reg
  refine word_statement (n := 6) (by omega) ?_ (fun _ h => ?_)
  · rw [extract_toNat, hw]
    omega
  · cases h
    exact and_eq_of_div (n := 8) (by omega) (by rw [hw]; simp; omega) rfl

theorem smpl (v0 v1 : Sample) : Statement (.smpl v0 v1) := label_statement (n := 7) _ (by omega) (by omega)
theorem mark (a : Adc) (h : Half) : Statement (.mark a h) := label_statement (n := 8) _ (by omega) (by omega)
theorem pack (h : Half) : Statement (.pack h) := label_statement (n := 9) _ (by omega) (by omega)
theorem push (f : Frame) : Statement (.push f) := label_statement (n := 10) _ (by omega) (by omega)
theorem pop : Statement .pop := label_statement (n := 11) _ (by omega) (by omega)
theorem send : Statement .send := label_statement (n := 12) _ (by omega) (by omega)
theorem lraise (kind : DropKind) : Statement (.lraise kind) := label_statement (n := 13) _ (by omega) (by omega)
theorem fatal (cause : FatalCause) : Statement (.fatal cause) := label_statement (n := 14) _ (by omega) (by omega)

end Sys2Proof.Laws.EncodingClass
end

