-- ==== Sys2Proof/Machine/Pseudo.lean ====
section
/-! DEFINITION. The pseudo-operations and their expansions (30_encoding.md R107). A pseudo-operation is not atomic: each of its
transactions is a turn of its own. -/

namespace Sys2Proof.Machine

/-- The pseudo-operations (R107). -/
inductive Pseudo where
  /-- `HT a`, half-done. -/
  | ht (a : Adc)
  /-- `TC a`, full-done. -/
  | tc (a : Adc)
  /-- `PAIR h`. -/
  | pair (h : Half)
  /-- `BRINGUP` (R342). -/
  | bringup
  /-- `FILL a, h, v_0, …, v_(S-1)`. -/
  | fill (a : Adc) (h : Half) (values : List Sample)
  deriving DecidableEq, Repr

/-- A FILL writes one whole half: it has `S` values (R107). -/
def pseudoWellFormed (c : Config) : Pseudo → Bool
  | .ht _ | .tc _ | .pair _ | .bringup => true
  | .fill _ _ values => values.length == c.S

/-- `DMAWR a, i, v` for the values in order, from element `i` on (R107). -/
def fillFrom (a : Adc) : Nat → List Sample → List Instr
  | _, [] => []
  | i, v :: vs => .dmawr a (BitVec.ofNat 11 i) v :: fillFrom a (i + 1) vs

/-- The transactions a pseudo-operation stands for, in order (R107). -/
def expand (c : Config) : Pseudo → List Instr
  | .ht a => [.evt a .first]
  | .tc a => [.evt a .second]
  | .pair h => [.evt .adc0 h, .evt .adc1 h]
  | .bringup => [.init, .start, .rstream]
  | .fill a h values => fillFrom a (Half.index h * c.S) values

/-- The turns of a list of transactions: one each, so that other agents may move between them (R107). -/
def turnsOf (is : List Instr) : List Turn := is.map fun i => .issue (encode i)

end Sys2Proof.Machine
end

