-- ==== Sys2Proof/Machine/Assembler.lean ====
section
/-! DEFINITION. The textual syntax of transactions (30_encoding.md R106) with the pseudo-operations of R107 and the two
annotations of programs, read one line at a time from its characters. A line that the syntax does not allow reads as nothing
(log 21). -/

namespace Sys2Proof.Machine

/-- A host call an `@HOST` line may name: those that have an answer (R106, R318). -/
inductive HostKind where
  | dmaStart (a : Adc)
  | timerStart
  | udpNew
  | udpConnect
  | alloc
  | send
  deriving DecidableEq, Repr

/-- What one line of a program says (R106). -/
inductive Line where
  | blank
  | txn (i : Instr)
  | pseudo (p : Pseudo)
  /-- `@SMPL v0, v1`: one step of the LOCKSTEP environment. -/
  | smpl (v0 v1 : Sample)
  /-- `@HOST call -> answer`: the host's answer to its next call of that kind. -/
  | host (call : HostKind) (answer : HostAnswer)
  deriving DecidableEq, Repr

/-! ### Characters -/

/-- A space or a tab. -/
def isBlank (c : Char) : Bool := c == ' ' || c == '\t'

/-- The line before its comment, which `;` starts (R106). -/
def withoutComment (l : List Char) : List Char := l.takeWhile fun c => c != ';'

/-- Without blanks at either end. -/
def trimmed (l : List Char) : List Char := ((l.dropWhile isBlank).reverse.dropWhile isBlank).reverse

/-- Cut at every comma: a list that is empty only for no text at all. -/
def cutAtCommas : List Char → List (List Char)
  | [] => [[]]
  | c :: cs =>
    match c == ',', cutAtCommas cs with
    | true, rest => [] :: rest
    | false, field :: rest => (c :: field) :: rest
    | false, [] => [[c]]

/-- The operands of a line, in order; none where no text is left. -/
def operandsOf (l : List Char) : List (List Char) :=
  if trimmed l = [] then [] else (cutAtCommas l).map trimmed

/-- The value of one hexadecimal digit. -/
def digitValue (c : Char) : Option Nat :=
  if '0' ≤ c ∧ c ≤ '9' then some (c.toNat - '0'.toNat)
  else if 'a' ≤ c ∧ c ≤ 'f' then some (c.toNat - 'a'.toNat + 10)
  else if 'A' ≤ c ∧ c ≤ 'F' then some (c.toNat - 'A'.toNat + 10)
  else none

/-- The digits of a number in base `b`, after those that made `n`. -/
def readDigits (b n : Nat) : List Char → Option Nat
  | [] => some n
  | c :: cs =>
    match digitValue c with
    | some d => if d < b then readDigits b (n * b + d) cs else none
    | none => none

/-- A number: decimal, or hexadecimal after `0x` (R106). -/
def readNumber : List Char → Option Nat
  | [] => none
  | '0' :: 'x' :: [] => none
  | '0' :: 'x' :: ds => readDigits 16 0 ds
  | ds => readDigits 10 0 ds

/-! ### Operands -/

/-- A number below `bound`. -/
def readBelow (bound : Nat) (l : List Char) : Option Nat :=
  (readNumber l).bind fun n => if n < bound then some n else none

/-- An ADC, 0 or 1. -/
def readAdc (l : List Char) : Option Adc := (readBelow 2 l).map fun n => Adc.ofBit (n == 1)

/-- A half, 0 or 1. -/
def readHalf (l : List Char) : Option Half := (readBelow 2 l).map fun n => Half.ofBit (n == 1)

/-- A 16-bit value. -/
def readSampleText (l : List Char) : Option Sample := (readBelow 0x10000 l).map fun n => BitVec.ofNat 16 n

/-- Every text of a list, read by `f`. -/
def readAll {α : Type} (f : List Char → Option α) : List (List Char) → Option (List α)
  | [] => some []
  | l :: ls =>
    match f l, readAll f ls with
    | some v, some vs => some (v :: vs)
    | _, _ => none

/-- `EVT a, h` and the operations of one ADC or one half. -/
def readEvt : List (List Char) → Option Instr
  | [a, h] =>
    match readAdc a, readHalf h with
    | some a, some h => some (.evt a h)
    | _, _ => none
  | _ => none

/-- `DMAWR a, idx, val`, with `idx` in `0..2S` (R106). -/
def readDmawr (c : Config) : List (List Char) → Option Instr
  | [a, idx, val] =>
    match readAdc a, readBelow (2 * c.S) idx, readSampleText val with
    | some a, some idx, some val => some (.dmawr a (BitVec.ofNat 11 idx) val)
    | _, _, _ => none
  | _ => none

/-- `RDSTAT reg`, with `reg` in `0..0x100` (R106). -/
def readRdstat : List (List Char) → Option Instr
  | [reg] => (readBelow 0x100 reg).map fun n => .rdstat (BitVec.ofNat 8 n)
  | _ => none

/-- `FILL a, h, v_0, …` with one value for each element of the half (R107). -/
def readFill (c : Config) : List (List Char) → Option Pseudo
  | a :: h :: vs =>
    match readAdc a, readHalf h, readAll readSampleText vs with
    | some a, some h, some vs =>
      if pseudoWellFormed c (.fill a h vs) then some (.fill a h vs) else none
    | _, _, _ => none
  | _ => none

/-- `@SMPL v0, v1`. -/
def readSmpl : List (List Char) → Option Line
  | [v0, v1] =>
    match readSampleText v0, readSampleText v1 with
    | some v0, some v1 => some (.smpl v0 v1)
    | _, _ => none
  | _ => none

/-- `f` of the only operand. -/
def readOne {α β : Type} (read : List Char → Option α) (f : α → β) : List (List Char) → Option β
  | [l] => (read l).map f
  | _ => none

/-- `v`, where there is no operand. -/
def readNone {α : Type} (v : α) : List (List Char) → Option α
  | [] => some v
  | _ :: _ => none

/-! ### `@HOST call -> answer` -/

/-- The call an `@HOST` line names. -/
def readHostKind (l : List Char) : Option HostKind :=
  if l = "DMA_START(0)".toList then some (.dmaStart .adc0)
  else if l = "DMA_START(1)".toList then some (.dmaStart .adc1)
  else if l = "TIMER_START".toList then some .timerStart
  else if l = "UDP_NEW".toList then some .udpNew
  else if l = "UDP_CONNECT".toList then some .udpConnect
  else if l = "ALLOC".toList then some .alloc
  else if l = "SEND".toList then some .send
  else none

/-- An answer of the type R318 gives the call: `true` or `false`, or for `UDP_NEW` a handle `h<n>` or `NONE`. -/
def readHostAnswer (call : HostKind) (l : List Char) : Option HostAnswer :=
  if call = .udpNew then
    match l with
    | 'h' :: d :: ds => (readDigits 10 0 (d :: ds)).map fun n => .handle (some n)
    | l => if l = "NONE".toList then some (.handle none) else none
  else if l = "true".toList then some (.bool true)
  else if l = "false".toList then some (.bool false)
  else none

/-- Cut at the first `->`. -/
def cutAtArrow : List Char → Option (List Char × List Char)
  | [] => none
  | '-' :: '>' :: rest => some ([], rest)
  | c :: rest => (cutAtArrow rest).map fun p => (c :: p.1, p.2)

/-- `@HOST call -> answer`. -/
def readHost (l : List Char) : Option Line :=
  match cutAtArrow l with
  | none => none
  | some (call, answer) =>
    match readHostKind (trimmed call) with
    | none => none
    | some k => (readHostAnswer k (trimmed answer)).map fun v => .host k v

/-! ### Lines -/

/-- The line with mnemonic `m` and the text `rest` after it (R106, R107). -/
def readOperation (c : Config) (m rest : List Char) : Option Line :=
  let ops := operandsOf rest
  if m = "INIT".toList then readNone (.txn .init) ops
  else if m = "START".toList then readNone (.txn .start) ops
  else if m = "TICK".toList then readNone (.txn .tick) ops
  else if m = "RSTREAM".toList then readNone (.txn .rstream) ops
  else if m = "EVT".toList then (readEvt ops).map .txn
  else if m = "DMAWR".toList then (readDmawr c ops).map .txn
  else if m = "RDSTAT".toList then (readRdstat ops).map .txn
  else if m = "HT".toList then readOne readAdc (fun a => .pseudo (.ht a)) ops
  else if m = "TC".toList then readOne readAdc (fun a => .pseudo (.tc a)) ops
  else if m = "PAIR".toList then readOne readHalf (fun h => .pseudo (.pair h)) ops
  else if m = "BRINGUP".toList then readNone (.pseudo .bringup) ops
  else if m = "FILL".toList then (readFill c ops).map .pseudo
  else if m = "@SMPL".toList then readSmpl ops
  else if m = "@HOST".toList then readHost rest
  else none

/-- Reading one line (R106). -/
def readLine (c : Config) (l : List Char) : Option Line :=
  let text := trimmed (withoutComment l)
  if text = [] then some .blank
  else readOperation c (text.takeWhile fun x => !isBlank x) (text.dropWhile fun x => !isBlank x)

/-- The turns a line stands for. An `@HOST` line is no turn: it goes to the host's script (log 21). -/
def lineTurns (c : Config) : Line → List Turn
  | .blank => []
  | .txn i => turnsOf [i]
  | .pseudo p => turnsOf (expand c p)
  | .smpl v0 v1 => turnsOf [.smpl v0 v1]
  | .host _ _ => []

end Sys2Proof.Machine
end

