-- ==== Sys2Proof/Tests/Slice0.lean ====
section
/-! SUPPORT. Tests on fixed values: expected results are the spec's own (30_encoding.md R92–R95, 95_test_vectors.md) or worked
out by hand from its rules. Then one witness for each hypothesis of an obligation, clause by clause. -/

namespace Sys2Proof.Tests

open Sys2Proof Sys2Proof.Machine

/-! ### Small instances and states -/

/-- The scenario configuration of 95_test_vectors.md: `S = 4`, `Q = 4`, 16 bits. -/
def scenario : Config :=
  { Config.reference with S := 4, Q := 4, sRange := by decide, qRange := by decide }

/-- `S = 1`, `Q = 1`, the smallest instance. -/
def smallest : Config :=
  { Config.reference with S := 1, Q := 1, sRange := by decide, qRange := by decide }

/-- `S = 2`, `Q = 1` under LOCKSTEP (program P4). -/
def clocked : Config :=
  { Config.reference with S := 2, Q := 1, dmaEnv := .lockstep, sRange := by decide, qRange := by decide }

/-- `S = 1`, `Q = 4` at 8 bits (program P3). -/
def narrow : Config :=
  { Config.reference with S := 1, Q := 4, sampleBits := .bits8, sRange := by decide, qRange := by decide }

/-- The frame of vector W1. -/
def frameW1 : Frame := { samples := [1, 10, 2, 20, 3, 30, 4, 40], sampleCount := 8, firstSampleIdx := 0, flags := 0 }

/-- A frame of an instance with `S = 1`. -/
def pairFrame : Frame := { samples := [0xBC, 0x23], sampleCount := 2, firstSampleIdx := 7, flags := 1 }

/-- A host that answers yes. -/
def willing : Oracle := { answers := [true, true, true], asked := 0, handles := [some 1], handlesAsked := 0 }

/-- A clean start with a host that answers yes, and with a `wf` that is written out. -/
def clean (c : Config) : State := { State.powerOn c 0 [] willing with wf := pairFrame }

/-- READY. -/
def ready (c : Config) : State := { clean c with life := .ready }

/-- RUNNING, with PCB 1. -/
def runningState (c : Config) : State := { clean c with life := .running, pcb := some 1 }

/-- The state of a LOCKSTEP instance after START. -/
def armed : State := { runningState clocked with dmaArmed := true }

/-- RUNNING with a frame popped. -/
def sendingState (c : Config) (f : Frame) : State := { runningState c with sender := .sending, wf := f }

/-- The scenario's buffers `[1, 2, 3, 4, …]` and `[10, 20, 30, 40, …]`, as far as half 0 goes. -/
def filled : State :=
  { runningState scenario with
    buf0 := [(0, 1), (1, 2), (2, 3), (3, 4)]
    buf1 := [(0, 10), (1, 20), (2, 30), (3, 40)] }

/-- A state with one turn to come. -/
def withTurn (t : Turn) (s : State) : State := { s with agenda := [t] }

/-- The next state, where there is one. -/
def after (o : Host.Outcome State Fault Refusal) : Option State :=
  match o with
  | .next t => some t
  | .fault _ => none
  | .refused _ => none

/-- One field of the next state. -/
def then_ {α : Type} (o : Host.Outcome State Fault Refusal) (f : State → α) : Option α := (after o).map f

/-- The last event of a history. -/
def lastEvent (s : State) : Option Event := s.history.getLast?

/-! ### WellFormed: an ill-formed term for each check -/

theorem test_wellFormed_dmawr_last : (Instr.dmawr .adc1 7 0).wellFormed scenario = true := by decide
theorem test_illFormed_dmawr_index : (Instr.dmawr .adc1 8 0).wellFormed scenario = false := by decide
theorem test_wellFormed_push : (Instr.push frameW1).wellFormed scenario = true := by decide
theorem test_illFormed_push_samples :
    (Instr.push { frameW1 with samples := [1, 10] }).wellFormed scenario = false := by decide
theorem test_illFormed_push_count :
    (Instr.push { frameW1 with sampleCount := 7 }).wellFormed scenario = false := by decide
theorem test_illFormed_push_flags :
    (Instr.push { frameW1 with flags := 2 }).wellFormed scenario = false := by decide
theorem test_illFormed_fatal_none : (Instr.fatal .none).wellFormed scenario = false := by decide
theorem test_illFormed_fatal_reserved : (Instr.fatal .initBadArgs).wellFormed scenario = false := by decide

/-! ### Decoding: words written out from R92–R95 and from 95_test_vectors.md, codes from R99 -/

theorem test_decode_init : decode scenario (.word 0x10000000) = .instr .init := by decide
theorem test_decode_start : decode scenario (.word 0x20000000) = .instr .start := by decide
theorem test_decode_tick : decode scenario (.word 0x30000000) = .instr .tick := by decide
theorem test_decode_rstream : decode scenario (.word 0x40000000) = .instr .rstream := by decide
theorem test_decode_evt_adc1_half : decode scenario (.word 0x50000001) = .instr (.evt .adc1 .first) := by decide
theorem test_decode_evt_adc0_full : decode scenario (.word 0x50000002) = .instr (.evt .adc0 .second) := by decide
theorem test_decode_dmawr : decode scenario (.word 0x68071234) = .instr (.dmawr .adc1 7 0x1234) := by decide
theorem test_decode_dmawr_adc0 : decode scenario (.word 0x60030028) = .instr (.dmawr .adc0 3 0x28) := by decide
theorem test_decode_dmawr_widest :
    decode { Config.reference with S := 1024, sRange := by decide } (.word 0x6FFFFFFF)
      = .instr (.dmawr .adc1 2047 0xFFFF) := by decide
theorem test_decode_rdstat : decode scenario (.word 0x70000009) = .instr (.rdstat 0x09) := by decide
theorem test_decode_zero : decode scenario (.word 0) = .illegal .reservedOp := by decide
theorem test_decode_reserved : decode scenario (.word 0xF0000000) = .illegal .reservedOp := by decide
theorem test_decode_init_bits : decode scenario (.word 0x10000001) = .illegal .nonzeroReservedBits := by decide
theorem test_decode_evt_bits : decode scenario (.word 0x50000004) = .illegal .nonzeroReservedBits := by decide
theorem test_decode_dmawr_range : decode scenario (.word 0x60080000) = .illegal .indexRange := by decide
theorem test_decode_rdstat_bits : decode scenario (.word 0x70000100) = .illegal .nonzeroReservedBits := by decide
theorem test_decode_smpl : decode clocked (.label 0x81 { Args.first with v0 := 5, v1 := 6 }) = .instr (.smpl 5 6) := by
  decide
theorem test_decode_mark :
    decode scenario (.label 0x82 { Args.first with adc := .adc1, half := .second }) = .instr (.mark .adc1 .second) := by
  decide
theorem test_decode_pack : decode scenario (.label 0x83 { Args.first with half := .second }) = .instr (.pack .second) := by
  decide
theorem test_decode_push : decode scenario (.label 0x84 { Args.first with frame := frameW1 }) = .instr (.push frameW1) := by
  decide
theorem test_decode_pop : decode scenario (.label 0x85 Args.first) = .instr .pop := by decide
theorem test_decode_send : decode scenario (.label 0x86 Args.first) = .instr .send := by decide
theorem test_decode_lraise :
    decode scenario (.label 0x87 { Args.first with kind := .sendFail }) = .instr (.lraise .sendFail) := by decide
theorem test_decode_fatal :
    decode scenario (.label 0x88 { Args.first with cause := .pcbNewFail }) = .instr (.fatal .pcbNewFail) := by decide
theorem test_decode_noLabel : decode scenario (.label 0x89 Args.first) = .noLabel 0x89 := by decide
theorem test_encode_dmawr : encode (.dmawr .adc1 3 0x28) = .word 0x68030028 := by decide
theorem test_encode_evt : encode (.evt .adc1 .second) = .word 0x50000003 := by decide

/-! ### Operations: at most two each, one step -/

/-- L1: INIT after a clean start. -/
theorem test_init : then_ (exec .init (clean scenario)) (fun t => (t.life, lastEvent t))
    = some (.ready, some (.txn 0x10000000 .ack)) := by decide

/-- L2: a second INIT is rejected. -/
theorem test_init_rejected : then_ (exec .init (ready scenario)) (fun t => (t.life, t.errCmd)) = some (.ready, true) := by
  decide

/-- L7: START under LOCKSTEP. -/
theorem test_start_lockstep :
    then_ (exec .start { ready clocked with dmaPos := 3 }) (fun t => (t.life, t.dmaArmed, t.dmaPos))
      = some (.running, true, 0) := by decide

/-- L6: the timer fails after both DMA calls. -/
theorem test_start_timer_fails :
    then_ (exec .start { ready scenario with oracle := { willing with answers := [true, true, false] } })
        (fun t => (t.life, t.fatalCause, t.history.length, lastEvent t))
      = some (.fatal, .startTimer, 5, some (.txn 0x20000000 .fail)) := by decide

/-- W10: TICK begins the drain. -/
theorem test_tick : then_ (exec .tick (runningState scenario)) (fun t => t.sender) = some .draining := by decide

/-- W11: a TICK during a tick is held. -/
theorem test_tick_held :
    then_ (exec .tick (sendingState scenario frameW1)) (fun t => (t.held, t.history)) = some ([0x30000000], []) := by
  decide

/-- W8: RSTREAM with no PCB to be had. -/
theorem test_rstream_new_fails :
    then_ (exec .rstream { runningState scenario with
          packetSequence := 7, oracle := { willing with handles := [none] } })
        (fun t => (t.pcb, t.packetSequence, t.life, t.fatalCause))
      = some (none, 0, .fatal, .pcbNewFail) := by decide

/-- S6: the old PCB is released, and the new one takes its place. -/
theorem test_rstream :
    then_ (exec .rstream { runningState scenario with
          streamIndex := 20, oracle := { willing with handles := [some 2] } })
        (fun t => (t.pcb, t.streamIndex, t.history.head?))
      = some (some 2, 0, some (.host (.pcbRelease 1) .none)) := by decide

/-- M2: the same half twice. -/
theorem test_evt_resignal :
    then_ (exec (.evt .adc0 .first) { ready scenario with pending := Pending.clear.set .adc0 .first })
        (fun t => (t.dropLatch, t.pending, t.history))
      = some (1, Pending.clear.set .adc0 .first, [.drop .resignal, .txn 0x50000000 .ack]) := by decide

/-- M6: an event in OFF is ignored without a command error. -/
theorem test_evt_ignored : then_ (exec (.evt .adc0 .first) (clean scenario)) (fun t => (t.errCmd, lastEvent t))
    = some (false, some (.txn 0x50000000 .ignored)) := by decide

/-- M8: `DMAWR 0, 2, 0x0ABC` in OFF. -/
theorem test_dmawr :
    then_ (exec (.dmawr .adc0 2 0xABC) (clean scenario)) (fun t => (t.buf0, t.buf1, lastEvent t))
      = some ([(2, 0xABC)], [], some (.txn 0x60020ABC .ack)) := by decide

/-- A second write of one element replaces the first, and the cells stay in order. -/
theorem test_dmawr_again :
    then_ (exec (.dmawr .adc1 2 5) { clean scenario with buf1 := [(1, 9), (2, 7), (3, 8)] }) (fun t => t.buf1)
      = some [(1, 9), (2, 5), (3, 8)] := by decide

/-- L8: CONFIG0 with `S = 4` at 16 bits. -/
theorem test_rdstat_config0 :
    then_ (exec (.rdstat 0x10) (clean scenario)) lastEvent = some (some (.txn 0x70000010 (.data 0x10020004))) := by decide

/-- L12: CONFIG2 with HOLD and LOCKSTEP. -/
theorem test_rdstat_config2 :
    then_ (exec (.rdstat 0x12) (clean { clocked with indexOnQueueFull := .hold })) lastEvent
      = some (some (.txn 0x70000012 (.data 0x12))) := by decide

/-- M11: the clock edge that completes half 0 packs it. -/
theorem test_smpl_half :
    then_ (exec (.smpl 7 9) { armed with dmaPos := 1, buf0 := [(0, 5)], buf1 := [(0, 6)] })
        (fun t => (t.dmaPos, t.slots, t.pending))
      = some (2, [(0, { samples := [5, 6, 7, 9], sampleCount := 4, firstSampleIdx := 0, flags := 0 })], Pending.clear) := by
  decide

/-- P4: the wrap meets a full queue. -/
theorem test_smpl_wrap :
    then_ (exec (.smpl 4 0x104) { armed with dmaPos := 3, qWrite := 1, nextSampleIdx := 2 })
        (fun t => (t.dmaPos, t.nextSampleIdx, t.dropLatch, t.qWrite))
      = some (0, 4, 1, 1) := by decide

/-- M4: the other half of the other ADC: no pair. -/
theorem test_mark_other_half :
    then_ (exec (.mark .adc1 .second) { ready scenario with pending := Pending.clear.set .adc0 .first })
        (fun t => (pendingBits t.pending, t.history))
      = some (9, []) := by decide

/-- M5: ADC1 may come first. -/
theorem test_mark_pair :
    then_ (exec (.mark .adc0 .first) { filled with pending := Pending.clear.set .adc1 .first })
        (fun t => (pendingBits t.pending, t.qWrite))
      = some (0, 1) := by decide

/-- K1 and K4: the frame of half 0, with the latch. -/
theorem test_pack :
    then_ (exec (.pack .first) { filled with dropLatch := 1 }) (fun t => (t.slots, t.nextSampleIdx, t.dropLatch))
      = some ([(0, { frameW1 with flags := 1 })], 4, 0) := by decide

/-- K5: a full queue under ADVANCE. -/
theorem test_pack_full :
    then_ (exec (.pack .second) { filled with qWrite := 4, nextSampleIdx := 16 })
        (fun t => (t.nextSampleIdx, t.dropLatch, t.qWrite, t.slots))
      = some (20, 1, 4, []) := by decide

/-- Q5: the index wraps at `2·Q`, and the slot is `7 mod 4`. -/
theorem test_push_wraps :
    then_ (exec (.push frameW1) { clean scenario with qRead := 5, qWrite := 7 }) (fun t => (t.slots, t.qWrite))
      = some ([(3, frameW1)], 0) := by decide

/-- Q4: full. -/
theorem test_push_full :
    then_ (exec (.push frameW1) { clean scenario with qRead := 7, qWrite := 3 }) (fun t => (t.slots, t.qWrite))
      = some ([], 3) := by decide

/-- R197's example: POP at `(7, 0)` takes slot 3. -/
theorem test_pop :
    then_ (exec .pop { runningState scenario with sender := .draining, qRead := 7, slots := [(3, frameW1)] })
        (fun t => (t.wf, t.qRead, t.sender))
      = some (frameW1, 0, .sending) := by decide

/-- W10: POP of an empty queue ends the tick. -/
theorem test_pop_empty :
    then_ (exec .pop { runningState scenario with sender := .draining, qRead := 2, qWrite := 2 })
        (fun t => (t.qRead, t.sender))
      = some (2, .idle) := by decide

/-- W1: the 36 bytes. -/
theorem test_send :
    then_ (exec .send (sendingState scenario frameW1)) (fun t => (lastEvent t, t.packetSequence, t.streamIndex))
      = some (some (.datagram
          [0, 0, 0, 0, 0, 0, 0, 0, 0, 0, 0, 0, 2, 0, 4, 0, 0, 0, 16, 0,
            1, 0, 10, 0, 2, 0, 20, 0, 3, 0, 30, 0, 4, 0, 40, 0] true), 1, 4) := by decide

/-- P3: the first datagram at 8 bits, refused. -/
theorem test_send_refused :
    then_ (exec .send { sendingState narrow { pairFrame with firstSampleIdx := 0, flags := 0 } with
          oracle := { willing with answers := [true, false] } })
        (fun t => (t.history.drop 3, t.packetSequence, t.dropLatch))
      = some ([.datagram [0, 0, 0, 0, 0, 0, 0, 0, 0, 0, 0, 0, 2, 0, 1, 0, 0, 0, 8, 0, 0xBC, 0x23] false,
          .drop .sendFail], 1, 1) := by decide

/-- W12. -/
theorem test_lraise :
    then_ (exec (.lraise .sendFail) { clean scenario with dropLatch := 1 }) (fun t => (t.dropLatch, t.history))
      = some (1, [.drop .sendFail]) := by decide

/-- R305. -/
theorem test_fatal :
    then_ (exec (.fatal .pcbConnectFail) (runningState scenario)) (fun t => (t.life, t.fatalCause, t.history))
      = some (.fatal, .pcbConnectFail, [.fatal .pcbConnectFail]) := by decide

/-- A table word placed after reset runs as the first instruction. -/
theorem test_withFetchWord :
    then_ (step (State.reset.withFetchWord 32 0x10000000)) (fun t => t.life) = some .ready := by decide

/-! ### Text and pseudo-operations (R106, R107) -/

/-- R134's example. -/
theorem test_readLine_dmawr :
    readLine scenario "DMAWR 1, 3, 0x0028 ; word 0x68030028".toList = some (.txn (.dmawr .adc1 3 0x28)) := by decide

/-- `idx` is in `0..2S`. -/
theorem test_readLine_range : readLine scenario "DMAWR 1, 8, 0".toList = none := by decide

/-- P6: `FILL 1, 0, 10,20,30,40` is four words. -/
theorem test_fill :
    (readLine scenario "FILL 1, 0, 10,20,30,40".toList).map (lineTurns scenario)
      = some [.issue (.word 0x6800000A), .issue (.word 0x68010014), .issue (.word 0x6802001E),
          .issue (.word 0x68030028)] := by decide

/-- P6: `BRINGUP` is three words. -/
theorem test_bringup : turnsOf (expand scenario .bringup)
    = [.issue (.word 0x10000000), .issue (.word 0x20000000), .issue (.word 0x40000000)] := by decide

/-! ### Witnesses: for each obligation with hypotheses, states and operands that meet them, clause by clause -/

/-- A queue with room under both predicates: two frames of four slots. -/
def halfFull : State := { runningState scenario with qRead := 6, qWrite := 0, slots := [(2, frameW1), (3, frameW1)] }

/-- A full queue: four frames. -/
def fullQueue : State := { runningState scenario with qRead := 0, qWrite := 4 }

/-- FATAL after a failed start. -/
def fatalState : State := { clean scenario with life := .fatal, fatalCause := .startTimer }

theorem test_witness_DecodeEncode :
    (Instr.dmawr .adc0 1 0xFFFF).wellFormed smallest = true ∧ (Instr.push pairFrame).wellFormed smallest = true
      ∧ (Instr.fatal .pcbConnectFail).wellFormed smallest = true := by decide

theorem test_witness_WordHasOneMeaning :
    decode smallest (.word 0x6801FFFF) = .instr (.dmawr .adc1 1 0xFFFF) := by decide

theorem test_witness_SpecWordsDecode : scenario.S = 4 := by decide

theorem test_witness_ReservedOpRejected :
    (withTurn (.issue (.word 0)) (clean scenario)).agenda = [.issue (.word 0)]
      ∧ (0x0FFFFFFF : TxnWord).extractLsb' 28 4 = 0
      ∧ 8 ≤ ((0x80000000 : TxnWord).extractLsb' 28 4).toNat
      ∧ 8 ≤ ((0xFFFFFFFF : TxnWord).extractLsb' 28 4).toNat := by decide

theorem test_witness_IllegalOperandsRejected_foreground :
    (0x10000001 : TxnWord).extractLsb' 28 4 = 1 ∧ (0x10000001 : TxnWord).extractLsb' 0 28 ≠ 0
      ∧ (0x48000000 : TxnWord).extractLsb' 28 4 = 4 ∧ (0x48000000 : TxnWord).extractLsb' 0 28 ≠ 0
      ∧ holding (withTurn (.issue (.word 0x10000001)) (runningState scenario)) = false := by decide

theorem test_witness_IllegalOperandsRejected_evt :
    (0x50000004 : TxnWord).extractLsb' 28 4 = 5 ∧ (0x50000004 : TxnWord).extractLsb' 2 26 ≠ 0 := by decide

theorem test_witness_IllegalOperandsRejected_dmawr :
    (0x60080000 : TxnWord).extractLsb' 28 4 = 6
      ∧ 2 * (clean scenario).cfg.S ≤ ((0x60080000 : TxnWord).extractLsb' 16 11).toNat := by decide

theorem test_witness_IllegalOperandsRejected_rdstat :
    (0x70000100 : TxnWord).extractLsb' 28 4 = 7 ∧ (0x70000100 : TxnWord).extractLsb' 8 20 ≠ 0 := by decide

theorem test_witness_StepRunsDecoded :
    (withTurn (.issue (.word 0x50000001)) filled).agenda = [.issue (.word 0x50000001)]
      ∧ decode filled.cfg (.word 0x50000001) = .instr (.evt .adc1 .first) := by decide

theorem test_witness_StepOtherwise :
    (clean scenario).agenda = []
      ∧ (withTurn (.issue (.label 0x80 Args.first)) filled).agenda = [.issue (.label 0x80 Args.first)]
      ∧ (0x80 : BitVec 8).toNat < 0x81 ∧ 0x88 < (0x89 : BitVec 8).toNat := by decide

theorem test_witness_ForegroundWordHeld :
    (withTurn (.issue (.word 0x4FFFFFFF)) (sendingState scenario frameW1)).agenda = [.issue (.word 0x4FFFFFFF)]
      ∧ 1 ≤ ((0x4FFFFFFF : TxnWord).extractLsb' 28 4).toNat ∧ ((0x4FFFFFFF : TxnWord).extractLsb' 28 4).toNat ≤ 4
      ∧ 1 ≤ ((0x10000000 : TxnWord).extractLsb' 28 4).toNat
      ∧ (sendingState scenario frameW1).life = .running ∧ (sendingState scenario frameW1).sender ≠ .idle := by decide

theorem test_witness_HeldWordResumes_waits :
    (withTurn .resume (sendingState scenario frameW1)).agenda = [.resume]
      ∧ holding (sendingState scenario frameW1) = true ∧ (withTurn .resume (clean scenario)).held = [] := by decide

theorem test_witness_HeldWordResumes_accepted :
    (withTurn .resume { runningState scenario with held := [0x40000000] }).agenda = [.resume]
      ∧ (withTurn .resume { runningState scenario with held := [0x40000000] }).held = [0x40000000]
      ∧ holding (withTurn .resume { runningState scenario with held := [0x40000000] }) = false := by decide

theorem test_witness_PowerOnResets : (withTurn .powerOn fatalState).agenda = [.powerOn] := by decide

theorem test_witness_InitPerforms :
    (clean scenario).life = .off ∧ (ready scenario).life ≠ .off ∧ holding (ready scenario) = false
      ∧ fatalState.life ≠ .off ∧ holding fatalState = false := by decide

theorem test_witness_StartRuns :
    (ready clocked).life = .ready ∧ (ready clocked).sender = .idle
      ∧ answerAt (ready clocked) 0 = true ∧ answerAt (ready clocked) 1 = true ∧ answerAt (ready clocked) 2 = true := by
  decide

theorem test_witness_StartFails_first :
    answerAt { ready scenario with oracle := { willing with answers := [false] } } 0 = false := by decide

theorem test_witness_StartFails_second :
    answerAt { ready scenario with oracle := { willing with answers := [true, false] } } 0 = true
      ∧ answerAt { ready scenario with oracle := { willing with answers := [true, false] } } 1 = false := by decide

theorem test_witness_StartFails_third :
    answerAt { ready scenario with oracle := { willing with answers := [true, true, false] } } 0 = true
      ∧ answerAt { ready scenario with oracle := { willing with answers := [true, true, false] } } 1 = true
      ∧ answerAt { ready scenario with oracle := { willing with answers := [true, true, false] } } 2 = false := by
  decide

theorem test_witness_AdmissionRejects :
    holding (runningState scenario) = false ∧ (runningState scenario).life ≠ .off
      ∧ (runningState scenario).life ≠ .ready ∧ holding (clean scenario) = false ∧ (clean scenario).life = .off
      ∧ holding fatalState = false ∧ fatalState.life = .fatal := by decide

theorem test_witness_RdstatPacks :
    halfFull.qRead.toNat < modulus halfFull.cfg ∧ halfFull.qWrite.toNat < modulus halfFull.cfg := by decide

theorem test_witness_RdstatReservedRejected :
    0x15 ≤ (0x15 : BitVec 8).toNat ∧ 0x15 ≤ (0xFF : BitVec 8).toNat := by decide

theorem test_witness_FatalIsHalted :
    fatalState.life = .fatal ∧ Lawful (withTurn (.issue (.word 0x60000005)) fatalState)
      ∧ (withTurn (.issue (.word 0x60000005)) fatalState).agenda.head? ≠ some .powerOn
      ∧ ∃ t, step (withTurn (.issue (.word 0x60000005)) fatalState) = .next t :=
  ⟨rfl, ⟨by decide, by decide⟩, by decide, _, rfl⟩

theorem test_witness_LifeTransitions :
    Lawful (withTurn (.issue (.word 0x20000000)) (ready scenario))
      ∧ ∃ t, step (withTurn (.issue (.word 0x20000000)) (ready scenario)) = .next t :=
  ⟨⟨by decide, by decide⟩, _, rfl⟩

theorem test_witness_DmawrWrites :
    (7 : BitVec 11).toNat < 2 * scenario.S ∧ 2 * scenario.S ≤ (8 : BitVec 11).toNat := by decide

theorem test_witness_EvtMarks :
    (ready scenario).life = .ready ∧ (runningState scenario).life = .running ∧ (clean scenario).life = .off
      ∧ fatalState.life = .fatal := by decide

theorem test_witness_MarkSignals :
    Adc.adc1 ≠ .adc0 ∧ (ready scenario).pending.get .adc1 .first = false := by decide

theorem test_witness_MarkCompletesPair :
    Adc.adc1 ≠ .adc0 ∧ (Pending.clear.set .adc1 .first).get .adc1 .first = true
      ∧ (Pending.clear.set .adc1 .first).get .adc0 .first = false := by decide

theorem test_witness_SimultaneousEventsCommute :
    filled.pending.get .adc0 .first = false ∧ filled.pending.get .adc1 .first = false := by decide

theorem test_witness_SmplWrites :
    armed.cfg.dmaEnv = .lockstep ∧ armed.dmaArmed = true ∧ armed.life = .running ∧ armed.dmaPos < 2 * armed.cfg.S := by
  decide

theorem test_witness_SmplEvents_half :
    ({ armed with dmaPos := 1 } : State).dmaPos + 1 = armed.cfg.S ∧ 1 < 2 * armed.cfg.S := by decide

theorem test_witness_SmplEvents_wrap :
    ({ armed with dmaPos := 3 } : State).dmaPos + 1 = 2 * armed.cfg.S ∧ 3 < 2 * armed.cfg.S := by decide

theorem test_witness_SmplEvents_between :
    armed.dmaPos + 1 ≠ armed.cfg.S ∧ armed.dmaPos + 1 ≠ 2 * armed.cfg.S := by decide

theorem test_witness_PackPublishes : queueFull filled = false ∧ queueFull halfFull = false := by decide

theorem test_witness_PackDiscards : queueFull fullQueue = true := by decide

theorem test_witness_PackTruncates :
    queueFull (runningState narrow) = false ∧ 0 < narrow.S ∧ narrow.sampleBits = .bits8
      ∧ queueFull filled = false ∧ 3 < filled.cfg.S ∧ filled.cfg.sampleBits = .bits16 := by decide

theorem test_witness_PushStores : queueFull fullQueue = true ∧ queueFull halfFull = false := by decide

theorem test_witness_FullIsCapacity :
    (7 : BitVec 32).toNat < modulus scenario ∧ (3 : BitVec 32).toNat < modulus scenario
      ∧ (0 : BitVec 32).toNat < modulus { smallest with queueFullRule := .moduloReserveOne } := by decide

theorem test_witness_RingIsFifo_push :
    halfFull.qRead.toNat < modulus halfFull.cfg ∧ halfFull.qWrite.toNat < modulus halfFull.cfg
      ∧ count halfFull.cfg halfFull.qRead halfFull.qWrite ≤ capacity halfFull.cfg ∧ queueFull halfFull = false := by
  decide

theorem test_witness_RingIsFifo_pop :
    fullQueue.qRead.toNat < modulus fullQueue.cfg ∧ fullQueue.qWrite.toNat < modulus fullQueue.cfg
      ∧ count fullQueue.cfg fullQueue.qRead fullQueue.qWrite ≤ capacity fullQueue.cfg
      ∧ popEnabled { fullQueue with sender := .draining } = true ∧ fullQueue.qRead ≠ fullQueue.qWrite := by decide

theorem test_witness_FreeRunningCounters :
    scenario.queueFullRule = .countQ ∧ scenario.Q = 2 ^ 2 ∧ ((2 : BitVec 32) - 0xFFFFFFFE).toNat ≤ scenario.Q
      ∧ (6 : BitVec 32).toNat = (0xFFFFFFFE : BitVec 32).toNat % (2 * scenario.Q)
      ∧ (2 : BitVec 32).toNat = (2 : BitVec 32).toNat % (2 * scenario.Q) := by decide

theorem test_witness_TickStarts :
    (runningState scenario).life = .running ∧ (runningState scenario).sender = .idle
      ∧ (sendingState scenario frameW1).life = .running ∧ (sendingState scenario frameW1).sender ≠ .idle
      ∧ (clean scenario).life = .off := by decide

theorem test_witness_PopTakes :
    ({ halfFull with sender := .draining } : State).sender = .draining ∧ halfFull.life = .running
      ∧ halfFull.qRead ≠ halfFull.qWrite ∧ filled.qRead = filled.qWrite := by decide

theorem test_witness_SendForms :
    (sendingState scenario frameW1).sender = .sending ∧ (sendingState scenario frameW1).life = .running
      ∧ 0 < frameW1.sampleCount.toNat ∧ frameW1.sampleCount.toNat % 2 = 0
      ∧ (sendingState scenario frameW1).pcb = some 1 ∧ answerAt (sendingState scenario frameW1) 0 = true := by decide

theorem test_witness_SendDiscards_invalid :
    ({ frameW1 with sampleCount := 0 } : Frame).sampleCount = 0
      ∧ ({ frameW1 with sampleCount := 7 } : Frame).sampleCount.toNat % 2 ≠ 0 ∧ (ready scenario).pcb = none := by decide

theorem test_witness_SendDiscards_alloc :
    frameW1.sampleCount ≠ 0 ∧ frameW1.sampleCount.toNat % 2 = 0 ∧ (sendingState scenario frameW1).pcb ≠ none
      ∧ answerAt { sendingState scenario frameW1 with oracle := { willing with answers := [false] } } 0 = false := by
  decide

theorem test_witness_StepsNotEnabled :
    scenario.dmaEnv = .free ∧ (ready clocked).dmaArmed = false ∧ (ready clocked).life ≠ .running
      ∧ (ready scenario).sender ≠ .draining ∧ (ready scenario).sender ≠ .sending ∧ (clean scenario).life = .off
      ∧ fatalState.life = .fatal := by decide

theorem test_witness_OnlyNullPcbIsInvalid :
    frameW1.wellFormed scenario = true ∧ (sendingState scenario frameW1).pcb ≠ none
      ∧ ∃ t, exec .send (sendingState scenario frameW1) = .next t :=
  ⟨by decide, by decide, _, rfl⟩

theorem test_witness_DatagramsHaveOneLength :
    pairFrame.wellFormed narrow = true ∧ ∃ t, exec .send (sendingState narrow pairFrame) = .next t :=
  ⟨by decide, _, rfl⟩

theorem test_witness_DatagramParses : frameW1.wellFormed scenario = true ∧ pairFrame.wellFormed narrow = true := by
  decide

theorem test_witness_RstreamConnects :
    (runningState scenario).life = .running ∧ (runningState scenario).sender = .idle
      ∧ handleNow (runningState scenario) = some 1 ∧ answerAt (runningState scenario) 0 = true := by decide

theorem test_witness_RstreamFails :
    handleNow { runningState scenario with oracle := { willing with handles := [none] } } = none
      ∧ handleNow { runningState scenario with oracle := { willing with answers := [false] } } = some 1
      ∧ answerAt { runningState scenario with oracle := { willing with answers := [false] } } 0 = false := by decide

theorem test_witness_OneResponse :
    (opField 0x00000000).toNat = 0 ∧ 4 < (opField 0x50000000).toNat ∧ holding (ready scenario) = false
      ∧ (withTurn (.issue (.word 0x40000000)) (ready scenario)).agenda = [.issue (.word 0x40000000)] := by decide

theorem test_witness_HistoryIsNotRead : ∃ t, exec .rstream (runningState scenario) = .next t := ⟨_, rfl⟩

theorem test_witness_ErrCmdIsSticky :
    (withTurn (.issue (.word 0)) (ready scenario)).agenda.head? ≠ some .powerOn
      ∧ (withTurn (.issue (.word 0)) (ready scenario)).errCmd = false
      ∧ ({ ready scenario with errCmd := true } : State).errCmd = true
      ∧ ∃ t, step (withTurn (.issue (.word 0)) (ready scenario)) = .next t
          ∧ t.history = (ready scenario).history ++ [] ++ [.txn 0 (.reject .reservedOp)] ∧ t.errCmd = true :=
  ⟨by decide, rfl, rfl, _, rfl, rfl, rfl⟩

theorem test_witness_ProducerOwnership :
    ∃ t, exec (.mark .adc0 .first) { filled with pending := Pending.clear.set .adc1 .first } = .next t := ⟨_, rfl⟩

theorem test_witness_ConsumerOwnership : ∃ t, exec .send (sendingState scenario frameW1) = .next t := ⟨_, rfl⟩

theorem test_witness_ParametersAreFixed : ∃ t, step (withTurn .powerOn fatalState) = .next t := ⟨_, rfl⟩

/-- The invariant holds of a state with frames queued and an event signalled. -/
theorem test_witness_StepKeepsInv :
    Invariant { halfFull with pending := Pending.clear.set .adc1 .second, buf0 := [(0, 1), (7, 9)], dropLatch := 1 }
      ∧ ∃ t, step (withTurn (.issue (.word 0x50000002))
          { halfFull with pending := Pending.clear.set .adc1 .second, buf0 := [(0, 1), (7, 9)], dropLatch := 1 })
        = .next t :=
  ⟨{ buf0 := by decide, buf1 := by decide, slots := by decide, qRead := by decide, qWrite := by decide
     occupancy := by decide, pending := fun h => by cases h <;> decide, latch := by decide, position := by decide },
    _, rfl⟩

theorem test_witness_StepKeepsLockstepClear :
    armed.cfg.dmaEnv = .lockstep
      ∧ Lawful (withTurn (.issue (.label 0x81 { Args.first with v0 := 7, v1 := 9 })) { armed with dmaPos := 1 })
      ∧ (∀ a h, armed.pending.get a h = false)
      ∧ (withTurn (.issue (.label 0x81 { Args.first with v0 := 7, v1 := 9 })) { armed with dmaPos := 1 }).agenda.head?
          ≠ some .powerOn
      ∧ ∃ t, step (withTurn (.issue (.label 0x81 { Args.first with v0 := 7, v1 := 9 })) { armed with dmaPos := 1 })
          = .next t :=
  ⟨by decide, ⟨by decide, by decide⟩, fun a h => by cases a <;> cases h <;> decide, by decide, _, rfl⟩

/-- A queue of two frames, and a turn to pop one. -/
theorem test_witness_StepKeepsFramesSound :
    Invariant (withTurn (.issue (.label 0x85 Args.first)) { halfFull with sender := .draining })
      ∧ Lawful (withTurn (.issue (.label 0x85 Args.first)) { halfFull with sender := .draining })
      ∧ FramesSound (withTurn (.issue (.label 0x85 Args.first)) { halfFull with sender := .draining })
      ∧ ∃ t, step (withTurn (.issue (.label 0x85 Args.first)) { halfFull with sender := .draining }) = .next t :=
  ⟨{ buf0 := by decide, buf1 := by decide, slots := by decide, qRead := by decide, qWrite := by decide
     occupancy := by decide, pending := fun h => by cases h <;> decide, latch := by decide, position := by decide },
    ⟨by decide, by decide⟩, ⟨by decide, fun h => by cases h⟩, _, rfl⟩

/-- After one publication with `flags` 1 and one drop: READY, with an event to come. -/
def marked : State :=
  withTurn (.issue (.word 0x50000000))
    { ready scenario with
      dropLatch := 1
      nextSampleIdx := 4
      history := [.drop .resignal, .published 0 0 1, .drop .resignal] }

theorem test_witness_StepKeepsFlagsLaw :
    Lawful marked ∧ FlagsLaw marked ∧ ∃ t, step marked = .next t :=
  ⟨⟨by decide, by decide⟩,
    { now := by decide
      published := fun before after k idx flags h => by
        rcases before with _ | ⟨a, _ | ⟨b, _ | ⟨c, _ | ⟨d, l⟩⟩⟩⟩ <;> simp [marked, withTurn] at h
        obtain ⟨rfl, ⟨rfl, rfl, rfl⟩, rfl⟩ := h
        decide
      beforeInit := fun h => by cases h },
    _, rfl⟩

theorem test_witness_StepKeepsIndexLaw :
    Lawful marked ∧ IndexLaw marked ∧ ∃ t, step marked = .next t :=
  ⟨⟨by decide, by decide⟩,
    { now := by decide
      published := fun before after k idx flags h => by
        rcases before with _ | ⟨a, _ | ⟨b, _ | ⟨c, _ | ⟨d, l⟩⟩⟩⟩ <;> simp [marked, withTurn] at h
        obtain ⟨rfl, ⟨rfl, rfl, rfl⟩, rfl⟩ := h
        decide
      beforeInit := fun h => by cases h },
    _, rfl⟩

/-- After one datagram of sequence number 0, with the next frame popped. -/
def sentOne : State :=
  withTurn (.issue (.label 0x86 Args.first))
    { sendingState scenario frameW1 with
      packetSequence := 1
      history := [.host .udpNew (.handle (some 1)), .datagram [0, 0, 0, 0] true] }

theorem test_witness_StepKeepsSequenceLaw :
    Lawful sentOne ∧ SequenceLaw sentOne ∧ ∃ t, step sentOne = .next t :=
  ⟨⟨by decide, by decide⟩,
    { now := by decide
      formed := fun before after bytes ok h => by
        rcases before with _ | ⟨a, _ | ⟨b, _ | ⟨c, l⟩⟩⟩ <;> simp [sentOne, withTurn] at h
        obtain ⟨rfl, ⟨rfl, rfl⟩, rfl⟩ := h
        decide },
    _, rfl⟩

end Sys2Proof.Tests
end

section
/-! Scope (00_scope.md): what a step runs (R15, R16, R105), that parameters are fixed (R6, R42), and the size of a datagram
(R9, R102, R224). -/

namespace Sys2Proof.Machine

/-! ### One step -/

/-- Settles O6: the turn is used up, and then the code is decoded and performed. -/
theorem stepRunsDecoded : Obligations.StepRunsDecoded := by
  intro s c i rest hagenda hdecode
  calc step s = takeTurn (.issue c) { s with agenda := rest } := step_of_cons hagenda
    _ = accept c { s with agenda := rest } := rfl
    _ = exec i { s with agenda := rest } := accept_of_instr hdecode

/-- Settles O52: "the parameters are those of `s`" is kept by the bookkeeping of a step, a rejection, a power-on reset and, by
`exec_fixed`, every operation. -/
theorem parametersAreFixed : Obligations.ParametersAreFixed := by
  intro s t h
  refine step_keeps (P := fun u => u.cfg = s.cfg) ?bookkeeping ?rejected ?reset ?operation rfl h
  case bookkeeping => exact fun _ _ _ hu => hu
  case rejected => exact fun _ _ _ hu => hu
  case reset => exact fun _ hu => hu
  case operation =>
    intro _ _ _ hu hexec
    obtain ⟨hcfg, _, _⟩ := exec_fixed hexec
    exact hcfg.trans hu

/-! ### Lengths on the wire (R9, R100, R101) -/

@[simp] theorem littleEndian_length {w : Nat} (n : Nat) (v : BitVec w) : (littleEndian n v).length = n := by
  simp [littleEndian]

theorem bytesPerSample_eq (c : Config) : bytesPerSample c = if c.sampleBits = .bits8 then 1 else 2 := by
  unfold bytesPerSample
  cases c.sampleBits <;> rfl

@[simp] theorem sampleBytes_length (c : Config) (w : Sample) : (sampleBytes c w).length = bytesPerSample c := by
  rw [bytesPerSample_eq, sampleBytes]
  cases c.sampleBits <;> simp

@[simp] theorem header_length (c : Config) (seq : BitVec 32) (idx : BitVec 64) (f : Frame) :
    (header c seq idx f).length = headerSize := by
  simp [header, headerSize]

@[simp] theorem payload_length (c : Config) (f : Frame) :
    (payload c f).length = f.sampleCount.toNat * bytesPerSample c := by
  simp only [payload, List.length_flatMap, sampleBytes_length, List.map_const', List.sum_replicate_nat, List.length_range]

/-- What SEND forms fills exactly the buffer it asks ALLOC for, whatever frame it holds (R102, R224). -/
theorem formDatagram_length (s : State) : (formDatagram s).length = datagramLength s := by
  simp [formDatagram, datagramLength]

/-- `S` is at most 1024 (D23), so the 32-bit sample count of a sound frame does not wrap. -/
theorem sampleCount_toNat_of_wellFormed {c : Config} {f : Frame} (h : f.wellFormed c = true) :
    f.sampleCount.toNat = frameSamples c := by
  simp only [Frame.wellFormed, Bool.and_eq_true, beq_iff_eq] at h
  obtain ⟨⟨_, hcount⟩, _⟩ := h
  have hS := c.sRange
  have hlt : c.S * Config.channels < 2 ^ 32 := by
    unfold Config.channels
    omega
  rw [hcount, BitVec.toNat_ofNat, Nat.mod_eq_of_lt hlt, frameSamples]

theorem datagramLength_of_wellFormed {s : State} (h : s.wf.wellFormed s.cfg = true) :
    datagramLength s = datagramSize s.cfg := by
  rw [datagramLength, sampleCount_toNat_of_wellFormed h, datagramSize, payloadSize, frameSamples]

/-! ### The datagrams of one SEND -/

/-- Every datagram among `new` has `n` bytes, and an ALLOC of `n` bytes was answered true among `new`. -/
def DatagramsAllocated (n : Nat) (new : List Event) : Prop :=
  ∀ bytes ok, Event.datagram bytes ok ∈ new → bytes.length = n ∧ Event.host (.alloc n) (.bool true) ∈ new

/-- A datagram is recorded only where ALLOC was answered true, and then it is the formed one (R222, R224). -/
theorem sendFrame_datagramsAllocated (h : Handle) (s : State) :
    ∃ new, (sendFrame h s).history = s.history ++ new ∧ DatagramsAllocated (datagramLength s) new := by
  cases halloc : answerAt s 0
  case false =>
    refine ⟨[.host (.alloc (datagramLength s)) (.bool false), .drop .allocFail], ?_, by simp [DatagramsAllocated]⟩
    simp [sendFrame_of_no_alloc h s halloc, answerNow_eq, halloc]
  case true =>
    rw [sendFrame_of_alloc h s halloc]
    refine ⟨_, List.append_assoc _ _ _, fun bytes ok hmem => ?_⟩
    have ⟨hbytes, _⟩ : bytes = formDatagram s ∧ ok = answerAt s 1 := by
      split at hmem <;> simpa using hmem
    exact ⟨hbytes ▸ formDatagram_length s, List.mem_append_left _ List.mem_cons_self⟩

theorem sendStep_datagramsAllocated (s : State) :
    ∃ new, (sendStep s).history = s.history ++ new ∧ DatagramsAllocated (datagramLength s) new := by
  cases hvalid : frameSendable s
  case false =>
    rw [sendStep_of_invalid s hvalid]
    exact ⟨[.drop .invalidFrame], rfl, by simp [DatagramsAllocated]⟩
  case true =>
    obtain ⟨p, hp⟩ := frameSendable_pcb hvalid
    rw [sendStep_of_sendable s hvalid hp]
    exact sendFrame_datagramsAllocated p { s with sender := .draining }

theorem execSend_datagramsAllocated {s t : State} (h : exec .send s = .next t) :
    ∃ new, t.history = s.history ++ new ∧ DatagramsAllocated (datagramLength s) new := by
  cases h
  split
  · exact sendStep_datagramsAllocated s
  · exact ⟨[], by simp, by simp [DatagramsAllocated]⟩

/-- Settles O42: a SEND's datagrams have the length asked of ALLOC, which for a sound frame is DATAGRAM_SIZE. -/
theorem datagramsHaveOneLength : Obligations.DatagramsHaveOneLength := by
  intro s t hsound hexec
  obtain ⟨new, hnew, halloc⟩ := execSend_datagramsAllocated hexec
  refine ⟨new, hnew, fun bytes ok hmem => ?_⟩
  obtain ⟨hlen, hcall⟩ := halloc bytes ok hmem
  refine ⟨?_, hlen ▸ hcall⟩
  calc bytes.length = datagramSize s.cfg := hlen.trans (datagramLength_of_wellFormed hsound)
    _ = headerSize + s.cfg.S * Config.channels * bytesPerSample s.cfg := rfl
    _ = 20 + s.cfg.S * 2 * (if s.cfg.sampleBits = .bits8 then 1 else 2) := by rw [bytesPerSample_eq]; rfl

end Sys2Proof.Machine
end

section
/-! State (10_state.md): what every step keeps of the reachable states (R25, R37, R60–R62, R140, R191, R198). -/

namespace Sys2Proof.Machine

/-! ### The invariant: what each part of an operation keeps (R25, R37, R60–R62, R140, R191, R198) -/

/-- Raising a latch that is 0 or 1 leaves 1 (R25). -/
theorem latch_or_one {x : BitVec 16} (h : x = 0 ∨ x = 1) : x ||| 1 = 0 ∨ x ||| 1 = 1 := by
  rcases h with rfl | rfl <;> exact .inr rfl

/-- A queue that is not full has room (R194, R195). -/
theorem count_lt_capacity {s : State} (hr : s.qRead.toNat < modulus s.cfg) (hw : s.qWrite.toNat < modulus s.cfg)
    (hocc : count s.cfg s.qRead s.qWrite ≤ capacity s.cfg) (hfull : queueFull s = false) :
    count s.cfg s.qRead s.qWrite < capacity s.cfg :=
  Nat.lt_of_le_of_ne hocc fun hcap =>
    Bool.false_ne_true (hfull.symm.trans ((full_eq s.cfg s.qRead s.qWrite hr hw).mpr hcap))

/-- A queue that is not empty holds a frame (R193, R195). -/
theorem count_ne_zero {s : State} (hr : s.qRead.toNat < modulus s.cfg) (hw : s.qWrite.toNat < modulus s.cfg)
    (hempty : queueEmpty s = false) : count s.cfg s.qRead s.qWrite ≠ 0 := fun hzero =>
  Bool.false_ne_true (hempty.symm.trans ((empty_eq s.cfg s.qRead s.qWrite hr hw).mpr hzero))

theorem twice_S_pos (c : Config) : 0 < 2 * c.S := by
  have := c.sRange
  omega

section
variable {s : State} (hs : Invariant s)
include hs

theorem record_invariant (e : Event) : Invariant (record e s) := { hs with }
theorem reject_invariant (w : TxnWord) (r : RejectReason) : Invariant (reject w r s) := { hs with }
theorem hold_invariant (w : TxnWord) : Invariant (hold w s) := { hs with }
theorem advanceIndex_invariant : Invariant (advanceIndex s) := { hs with }
theorem clearLatch_invariant : Invariant (clearLatch s) := { hs with latch := .inl rfl }
theorem raiseDrop_invariant (k : DropKind) : Invariant (raiseDrop k s) := { hs with latch := latch_or_one hs.latch }

theorem enqueue_invariant (f : Frame) (hfull : queueFull s = false) : Invariant (enqueue f s) :=
  have hroom := count_lt_capacity hs.qRead hs.qWrite hs.occupancy hfull
  have hmodulus := capacity_lt_modulus s.cfg
  have hcount := count_adv_write s.cfg s.qRead s.qWrite hs.qRead hs.qWrite (by omega)
  { hs with
    slots := ⟨Memory.put_wf _ _ f hs.slots.1, Memory.put_below _ f hs.slots.2 (slotIndex_lt _ _)⟩
    qWrite := adv_lt _ _
    occupancy := Nat.le_trans (Nat.le_of_eq hcount) hroom }

theorem dequeue_invariant (hempty : queueEmpty s = false) : Invariant (dequeue s) :=
  have hone := count_adv_read s.cfg _ _ hs.qRead hs.qWrite (count_ne_zero hs.qRead hs.qWrite hempty)
  { hs with
    qRead := adv_lt _ _
    occupancy := by
      have hocc := hs.occupancy
      simp only [dequeue_cfg, dequeue_qRead, dequeue_qWrite]
      omega }

theorem publish_invariant (f : Frame) : Invariant (publish f s) := by
  cases hfull : queueFull s
  case true => rwa [publish_of_full f s hfull]
  case false =>
    rw [publish_of_not_full f s hfull]
    exact record_invariant (enqueue_invariant hs f hfull) _

theorem discardHalf_invariant : Invariant (discardHalf s) := by
  unfold discardHalf
  split
  · exact advanceIndex_invariant (raiseDrop_invariant hs _)
  · exact raiseDrop_invariant hs _

theorem pack_invariant (h : Half) : Invariant (pack h s) := by
  unfold pack
  split
  · exact hs
  · split
    · exact discardHalf_invariant hs
    · exact publish_invariant (clearLatch_invariant (advanceIndex_invariant hs)) _

theorem resignal_invariant (a : Adc) (h : Half) : Invariant (resignal a h s) := by
  unfold resignal
  split
  · exact raiseDrop_invariant hs _
  · exact hs

/-- Inside MARK, between its two writes of the map, a half may have both bits pending; `mark_pairDone` says what is left
(R140). -/
theorem completePair_setPending_invariant (a : Adc) (h : Half) : Invariant (completePair h (setPending a h s)) := by
  have hmap := fun k => mark_pairDone a h k s hs.pending
  unfold completePair
  split
  case isTrue hdone =>
    rw [setPending_pending] at hdone
    simp only [mark_pending, if_pos hdone] at hmap
    exact pack_invariant (s := { s with pending := (s.pending.set a h).clearHalf h }) { hs with pending := hmap } h
  case isFalse hdone =>
    rw [setPending_pending] at hdone
    simp only [mark_pending, if_neg hdone] at hmap
    exact { hs with pending := hmap }

theorem mark_invariant (a : Adc) (h : Half) : Invariant (mark a h s) :=
  completePair_setPending_invariant (resignal_invariant hs a h) a h

theorem writeSample_invariant (a : Adc) {i : Nat} (v : Sample) (hi : i < 2 * s.cfg.S) :
    Invariant (writeSample a i v s) := by
  cases a with
  | adc0 => exact { hs with buf0 := ⟨Memory.put_wf _ _ v hs.buf0.1, Memory.put_below _ v hs.buf0.2 hi⟩ }
  | adc1 => exact { hs with buf1 := ⟨Memory.put_wf _ _ v hs.buf1.1, Memory.put_below _ v hs.buf1.2 hi⟩ }

theorem clockEvents_invariant (p1 : Nat) : Invariant (clockEvents p1 s) := by
  rw [clockEvents_eq]
  split
  · exact mark_invariant (mark_invariant hs _ _) _ _
  · split
    · exact mark_invariant (mark_invariant hs _ _) _ _
    · exact hs

theorem writePair_invariant (v0 v1 : Sample) : Invariant (writePair v0 v1 s) :=
  writeSample_invariant (writeSample_invariant hs .adc0 v0 hs.position) .adc1 v1 hs.position

theorem samplePeriod_invariant (v0 v1 : Sample) : Invariant (samplePeriod v0 v1 s) := by
  have hcfg : (clockEvents (s.dmaPos + 1) (writePair v0 v1 s)).cfg = s.cfg :=
    (clockEvents_onlyProducerWrites _ _).cfg
  have hwrap : wrapPos s.cfg (s.dmaPos + 1) < 2 * s.cfg.S := by
    have hpos := hs.position
    unfold wrapPos
    split <;> omega
  exact { clockEvents_invariant (writePair_invariant hs v0 v1) (s.dmaPos + 1) with
    position := Nat.lt_of_lt_of_eq hwrap (congrArg (fun c => 2 * c.S) hcfg.symm) }

theorem initialise_invariant : Invariant (initialise s) :=
  { hs with pending := fun h => by cases h <;> rfl, latch := .inl rfl }

theorem running_invariant : Invariant (running s) := by
  unfold running
  split
  · exact { hs with }
  · exact { hs with position := twice_S_pos s.cfg }

theorem callBool_invariant (c : HostCall) : Invariant (callBool c s) := { hs with }
theorem raiseFatal_invariant (cause : FatalCause) : Invariant (raiseFatal cause s) := { hs with }

theorem startFails_invariant (cause : FatalCause) : Invariant (startFails cause s) :=
  record_invariant (raiseFatal_invariant hs cause) _

theorem startCalls_invariant : Invariant (startCalls s) := by
  have h0 := callBool_invariant hs (.dmaStart .adc0)
  have h1 := callBool_invariant h0 (.dmaStart .adc1)
  have h2 := callBool_invariant h1 .timerStart
  unfold startCalls
  dsimp only
  split
  · exact startFails_invariant h0 _
  · split
    · exact startFails_invariant h1 _
    · split
      · exact startFails_invariant h2 _
      · exact record_invariant (running_invariant h2) _

theorem connectStream_invariant (p : Handle) : Invariant (connectStream p s) := by
  have hcall := callBool_invariant hs (.udpConnect p s.cfg.destIp s.cfg.destPort)
  unfold connectStream
  dsimp only
  split
  · exact { hcall with }
  · exact record_invariant (raiseFatal_invariant (record_invariant hcall _) _) _

theorem resetStream_invariant : Invariant (resetStream s) := by
  have htorn : Invariant (tearDown s) := by
    rw [tearDown_eq]
    exact { hs with }
  have hnew : Invariant (callUdpNew (tearDown s)) := { htorn with }
  unfold resetStream
  dsimp only
  split
  · exact record_invariant (raiseFatal_invariant hnew _) _
  · exact connectStream_invariant hnew _

theorem popStep_invariant : Invariant (popStep s) := by
  unfold popStep
  split
  · exact { hs with }
  · rename_i hempty
    exact { dequeue_invariant hs (Bool.eq_false_iff.mpr hempty) with }

theorem sendFrame_invariant (p : Handle) : Invariant (sendFrame p s) := by
  cases halloc : answerAt s 0
  case false =>
    rw [sendFrame_of_no_alloc p s halloc]
    exact raiseDrop_invariant (callBool_invariant hs _) _
  case true =>
    rw [sendFrame_of_alloc p s halloc]
    cases answerAt s 1
    · exact { hs with latch := latch_or_one hs.latch }
    · exact { hs with }

theorem sendStep_invariant : Invariant (sendStep s) := by
  have hdrain : Invariant { s with sender := .draining } := { hs with }
  cases hvalid : frameSendable s
  case false =>
    rw [sendStep_of_invalid s hvalid]
    exact raiseDrop_invariant hdrain _
  case true =>
    obtain ⟨p, hp⟩ := frameSendable_pcb hvalid
    rw [sendStep_of_sendable s hvalid hp]
    exact sendFrame_invariant hdrain p

theorem foreground_invariant (w : TxnWord) {f : State → State} (hf : Invariant (f s)) :
    Invariant (foreground w f s) := by
  unfold foreground
  split
  · exact hold_invariant hs w
  · exact hf

end

theorem powerOn_invariant (c : Config) (epoch : Nat) (agenda : List Turn) (oracle : Oracle) :
    Invariant (State.powerOn c epoch agenda oracle) where
  buf0 := ⟨rfl, rfl⟩
  buf1 := ⟨rfl, rfl⟩
  slots := ⟨rfl, rfl⟩
  qRead := modulus_pos _
  qWrite := modulus_pos _
  occupancy := Nat.le_trans (Nat.le_of_eq ((empty_eq c 0 0 (modulus_pos _) (modulus_pos _)).mp rfl)) (Nat.zero_le _)
  pending := fun h => by cases h <;> rfl
  latch := .inl rfl
  position := twice_S_pos c

/-- Every operation keeps the invariant, sub-operations taken alone included. -/
theorem exec_invariant {i : Instr} {s t : State} (hs : Invariant s) (h : exec i s = .next t) : Invariant t := by
  cases i with
  | init =>
    cases h
    refine foreground_invariant hs _ ?_
    split
    · exact record_invariant (initialise_invariant hs) _
    · exact reject_invariant hs _ _
  | start =>
    cases h
    refine foreground_invariant hs _ ?_
    split
    · exact startCalls_invariant hs
    · exact reject_invariant hs _ _
  | tick =>
    cases h
    refine foreground_invariant hs _ ?_
    split
    · exact { hs with }
    · exact reject_invariant hs _ _
  | rstream =>
    cases h
    refine foreground_invariant hs _ ?_
    split
    · exact resetStream_invariant hs
    · exact reject_invariant hs _ _
  | evt a k =>
    cases h
    split
    · exact record_invariant (mark_invariant hs a k) _
    · exact record_invariant hs _
  | dmawr a idx val =>
    cases h
    split
    · exact record_invariant (writeSample_invariant hs a val (by assumption)) _
    · exact reject_invariant hs _ _
  | rdstat reg =>
    cases h
    split
    · exact record_invariant hs _
    · exact reject_invariant hs _ _
  | smpl v0 v1 =>
    simp only [exec, execSmpl] at h
    split at h
    · split at h
      · cases h; exact samplePeriod_invariant hs v0 v1
      · cases h
    · cases h; exact hs
  | mark a k => cases h; exact mark_invariant hs a k
  | pack k => cases h; exact pack_invariant hs k
  | push f => cases h; exact publish_invariant hs f
  | pop =>
    cases h
    split
    · exact popStep_invariant hs
    · exact hs
  | send =>
    cases h
    split
    · exact sendStep_invariant hs
    · exact hs
  | lraise k => cases h; exact raiseDrop_invariant hs k
  | fatal cause => cases h; exact { hs with }

/-- Settles O54: bookkeeping and rejections write no field of the invariant, a power-on reset establishes it, and every
operation keeps it. -/
theorem stepKeepsInv : Obligations.StepKeepsInv := by
  intro s t hs hstep
  refine step_keeps (P := Invariant) ?bookkeeping ?rejected ?reset ?operation hs hstep
  case bookkeeping => exact fun _ _ _ hu => { hu with }
  case rejected => exact fun w r _ hu => reject_invariant hu w r
  case reset => exact fun _ _ => powerOn_invariant _ _ _ _
  case operation => exact fun _ _ _ hu hexec => exec_invariant hu hexec

/-- Settles O53: reset is a power-on, and that leaves empty memories and an empty ring. -/
theorem invReset : Obligations.InvReset := powerOn_invariant _ _ _ _

end Sys2Proof.Machine
end

section
/-! State (10_state.md): the frames in the ring and in `wf` (R31, R160, R198), the words that wait and the turns
to come (R15, R275). -/

namespace Sys2Proof.Machine

/-! ### Where the frames of the ring lie (R195, R198) -/

/-- The write index is the occupancy after the read index (R195). -/
theorem read_add_count (c : Config) {r w : BitVec 32} (hr : r.toNat < modulus c) (hw : w.toNat < modulus c) :
    (r.toNat + count c r w) % modulus c = w.toNat := by
  rw [count_eq c r w hr hw]
  split
  · rw [Nat.add_sub_of_le (by assumption), Nat.mod_eq_of_lt hw]
  · rw [show r.toNat + (w.toNat + modulus c - r.toNat) = w.toNat + modulus c by omega, Nat.add_mod_right,
      Nat.mod_eq_of_lt hw]

theorem occupiedSlot_eq (s : State) (j : Nat) : occupiedSlot s j = (s.qRead.toNat + j) % s.cfg.Q := slotOf_mod _ _

/-- The slot PUSH writes comes right after the occupied ones (R192, R198). -/
theorem occupiedSlot_count {s : State} (hr : s.qRead.toNat < modulus s.cfg) (hw : s.qWrite.toNat < modulus s.cfg) :
    occupiedSlot s (count s.cfg s.qRead s.qWrite) = slotIndex s.cfg s.qWrite := by
  rw [occupiedSlot, read_add_count s.cfg hr hw, slotIndex]

theorem queueContents_congr {s t : State} (hcfg : t.cfg = s.cfg) (hread : t.qRead = s.qRead)
    (hwrite : t.qWrite = s.qWrite) (hslots : t.slots = s.slots) (hepoch : t.epoch = s.epoch) :
    queueContents t = queueContents s := by
  simp only [queueContents, occupiedSlot, hcfg, hread, hwrite, readSlot_congr hslots hepoch]

/-- A PUSH with room puts its frame behind those in the ring (R196, R198, R199). -/
theorem queueContents_enqueue {s : State} (f : Frame) (hr : s.qRead.toNat < modulus s.cfg)
    (hw : s.qWrite.toNat < modulus s.cfg) (hroom : count s.cfg s.qRead s.qWrite < capacity s.cfg) :
    queueContents (enqueue f s) = queueContents s ++ [f] := by
  have hcap := capacity_lt_modulus s.cfg
  have hQ := capacity_le_Q s.cfg
  have hcount : count s.cfg s.qRead (adv s.cfg s.qWrite) = count s.cfg s.qRead s.qWrite + 1 :=
    count_adv_write s.cfg _ _ hr hw (by omega)
  have hnew : readSlot (occupiedSlot s (count s.cfg s.qRead s.qWrite)) (enqueue f s) = f := by
    rw [occupiedSlot_count hr hw]
    exact readSlot_writeSlot_self (slotIndex s.cfg s.qWrite) f s
  have hold : ∀ j < count s.cfg s.qRead s.qWrite,
      readSlot (occupiedSlot s j) (enqueue f s) = readSlot (occupiedSlot s j) s := fun j hj => by
    refine readSlot_writeSlot_other (k := slotIndex s.cfg s.qWrite) f s ?_
    rw [← occupiedSlot_count hr hw, occupiedSlot_eq, occupiedSlot_eq]
    exact slot_ne (by omega) (by omega)
  calc queueContents (enqueue f s)
      = (List.range (count s.cfg s.qRead (adv s.cfg s.qWrite))).map
          fun j => readSlot (occupiedSlot s j) (enqueue f s) := rfl
    _ = ((List.range (count s.cfg s.qRead s.qWrite)).map fun j => readSlot (occupiedSlot s j) (enqueue f s))
          ++ [f] := by rw [hcount, List.range_succ, List.map_append, List.map_singleton, hnew]
    _ = queueContents s ++ [f] := by
      rw [queueContents, List.map_congr_left fun j hj => hold j (List.mem_range.mp hj)]

/-- A POP takes the oldest frame and leaves the others in order (R197, R198, R199). -/
theorem queueContents_dequeue {s : State} (hr : s.qRead.toNat < modulus s.cfg) (hw : s.qWrite.toNat < modulus s.cfg)
    (hcount : count s.cfg s.qRead s.qWrite ≠ 0) :
    queueContents s = oldestFrame s :: queueContents (dequeue s) := by
  have hone : count s.cfg s.qRead s.qWrite = count s.cfg (adv s.cfg s.qRead) s.qWrite + 1 :=
    (count_adv_read s.cfg _ _ hr hw hcount).symm
  have hfirst : occupiedSlot s 0 = slotIndex s.cfg s.qRead := by rw [occupiedSlot_eq, slotIndex, Nat.add_zero]
  have hnext : ∀ j, occupiedSlot s (j + 1) = occupiedSlot (dequeue s) j := fun j => by
    rw [occupiedSlot, occupiedSlot, dequeue_cfg, dequeue_qRead, adv_toNat s.cfg _ hr]
    split
    · rename_i hwrap
      rw [show s.qRead.toNat + (j + 1) = 0 + j + modulus s.cfg by omega, Nat.add_mod_right]
    · rw [show s.qRead.toNat + (j + 1) = s.qRead.toNat + 1 + j by omega]
  calc queueContents s
      = readSlot (occupiedSlot s 0) s
          :: (List.range (count s.cfg (adv s.cfg s.qRead) s.qWrite)).map
            fun j => readSlot (occupiedSlot s (j + 1)) s := by
        rw [queueContents, hone, List.range_succ_eq_map, List.map_cons, List.map_map]
        rfl
    _ = oldestFrame s :: queueContents (dequeue s) := by
        rw [hfirst]
        simp only [hnext]
        rfl

/-! ### What keeps the frames sound (R31, R160) -/

/-- The frame PACK builds has `S·C` samples, that count, and the latch as its flags (R160). -/
theorem buildFrame_wellFormed (h : Half) {s : State} (hlatch : s.dropLatch = 0 ∨ s.dropLatch = 1) :
    (buildFrame h s).wellFormed s.cfg = true := by
  have hflags : (s.dropLatch == 0 || s.dropLatch == 1) = true := by simpa using hlatch
  have hlength : ((halfSamples h s).length == s.cfg.S * Config.channels) = true :=
    beq_iff_eq.mpr (halfSamples_length h s)
  simp only [Frame.wellFormed, buildFrame, frameSamples, hflags, hlength, beq_self_eq_true, Bool.and_self]

/-! ### The producer keeps the frames sound -/

theorem publish_framesSound {s : State} {f : Frame} (hr : s.qRead.toNat < modulus s.cfg)
    (hw : s.qWrite.toNat < modulus s.cfg) (hocc : count s.cfg s.qRead s.qWrite ≤ capacity s.cfg)
    (hf : f.wellFormed s.cfg = true) (hs : FramesSound s) : FramesSound (publish f s) := by
  obtain ⟨hqueue, hwf⟩ := hs
  cases hfull : queueFull s
  case true => exact (publish_of_full f s hfull).symm ▸ ⟨hqueue, hwf⟩
  case false =>
    rw [publish_of_not_full f s hfull]
    refine ⟨fun g hg => ?_, hwf⟩
    have hg : g ∈ queueContents s ++ [f] := by
      rw [← queueContents_enqueue f hr hw (count_lt_capacity hr hw hocc hfull)]
      exact hg
    rcases List.mem_append.mp hg with hg | hg
    · exact hqueue g hg
    · exact List.mem_singleton.mp hg ▸ hf

theorem pack_framesSound (h : Half) {s : State} (hr : s.qRead.toNat < modulus s.cfg)
    (hw : s.qWrite.toNat < modulus s.cfg) (hocc : count s.cfg s.qRead s.qWrite ≤ capacity s.cfg)
    (hlatch : s.dropLatch = 0 ∨ s.dropLatch = 1) (hs : FramesSound s) : FramesSound (pack h s) := by
  unfold pack discardHalf
  split
  · exact hs
  · split
    · split <;> exact hs
    · exact publish_framesSound (s := clearLatch (advanceIndex s)) hr hw hocc (buildFrame_wellFormed h hlatch) hs

theorem mark_framesSound (a : Adc) (h : Half) {s : State} (hi : Invariant s) (hs : FramesSound s) :
    FramesSound (mark a h s) := by
  have hi' := resignal_invariant hi a h
  have hs' : FramesSound (resignal a h s) := by
    unfold resignal
    split <;> exact hs
  unfold mark completePair
  split
  · exact pack_framesSound h hi'.qRead hi'.qWrite hi'.occupancy hi'.latch hs'
  · exact hs'

theorem samplePeriod_framesSound (v0 v1 : Sample) {s : State} (hi : Invariant s) (hs : FramesSound s) :
    FramesSound (samplePeriod v0 v1 s) := by
  have hi' := writePair_invariant hi v0 v1
  have hboth : ∀ h, FramesSound (markBoth h (writePair v0 v1 s)) := fun h =>
    mark_framesSound .adc1 h (mark_invariant hi' .adc0 h) (mark_framesSound .adc0 h hi' hs)
  show FramesSound (clockEvents (s.dmaPos + 1) (writePair v0 v1 s))
  rw [clockEvents_eq]
  split
  · exact hboth .first
  · split
    · exact hboth .second
    · exact hs

/-! ### The consumer keeps the frames sound -/

theorem sendFrame_qRead_sender (p : Handle) (s : State) :
    (sendFrame p s).qRead = s.qRead ∧ (sendFrame p s).sender = s.sender := by
  cases halloc : answerAt s 0
  · rw [sendFrame_of_no_alloc p s halloc]
    exact ⟨rfl, rfl⟩
  · rw [sendFrame_of_alloc p s halloc]
    exact ⟨rfl, rfl⟩

/-- SEND frees no slot and returns to the drain loop, whatever its outcome (R222). -/
theorem sendStep_qRead_sender (s : State) : (sendStep s).qRead = s.qRead ∧ (sendStep s).sender = .draining := by
  cases hvalid : frameSendable s
  · rw [sendStep_of_invalid s hvalid]
    exact ⟨rfl, rfl⟩
  · obtain ⟨p, hp⟩ := frameSendable_pcb hvalid
    rw [sendStep_of_sendable s hvalid hp]
    exact sendFrame_qRead_sender p { s with sender := .draining }

/-- A state with the same ring has sound frames if it has SEND next only where `s` had, with the same `wf`. -/
theorem FramesSound.congr {s t : State} (hs : FramesSound s) (hcfg : t.cfg = s.cfg)
    (hqueue : queueContents t = queueContents s) (hwf : t.wf = s.wf)
    (hsender : t.sender = s.sender ∨ t.sender ≠ .sending) : FramesSound t := by
  obtain ⟨hframes, hnext⟩ := hs
  refine ⟨by rwa [hqueue, hcfg], fun hsending => ?_⟩
  rw [hwf, hcfg]
  exact hnext (hsender.elim (fun heq => heq ▸ hsending) (absurd hsending))

theorem popStep_framesSound {s : State} (hi : Invariant s) (hs : FramesSound s) : FramesSound (popStep s) := by
  unfold popStep
  split
  case isTrue => exact hs.congr rfl rfl rfl (.inr (by simp))
  case isFalse hempty =>
    have hcount := count_ne_zero hi.qRead hi.qWrite (Bool.eq_false_iff.mpr hempty)
    obtain ⟨hframes, _⟩ := hs
    rw [queueContents_dequeue hi.qRead hi.qWrite hcount, List.forall_mem_cons] at hframes
    exact ⟨hframes.2, fun _ => hframes.1⟩

theorem sendStep_framesSound {s : State} (hs : FramesSound s) : FramesSound (sendStep s) := by
  have hframe := sendStep_onlyConsumerWrites s
  obtain ⟨hread, hsender⟩ := sendStep_qRead_sender s
  have hqueue := queueContents_congr hframe.cfg hread hframe.qWrite hframe.slots hframe.epoch
  obtain ⟨hframes, _⟩ := hs
  refine ⟨by rwa [hqueue, hframe.cfg], fun hsending => ?_⟩
  rw [hsender] at hsending
  cases hsending

/-! ### The foreground and the words that wait (R275) -/

/-- `t` has the waiting words of `s`, and at most one foreground word more. -/
def HoldsAtMostOne (s t : State) : Prop :=
  t.held = s.held ∨ ∃ w, isForegroundWord w = true ∧ t.held = s.held ++ [w]

/-- A foreground command begins a tick or leaves the consumer where it is. -/
def TicksAtMost (s t : State) : Prop := t.sender = s.sender ∨ t.sender = .draining

/-- START writes neither the consumer's state nor the words that wait (R272). -/
theorem startCalls_sender_held (s : State) :
    (startCalls s).sender = s.sender ∧ (startCalls s).held = s.held := by
  unfold startCalls startFails running
  dsimp only
  repeat' split
  all_goals simp

/-- RSTREAM writes neither the consumer's state nor the words that wait (R232). -/
theorem resetStream_sender_held (s : State) :
    (resetStream s).sender = s.sender ∧ (resetStream s).held = s.held := by
  unfold resetStream connectStream
  rw [tearDown_eq]
  dsimp only
  repeat' split
  all_goals simp

theorem foreground_sender_held {w : TxnWord} (hw : isForegroundWord w = true) {f : State → State} {s : State}
    (hf : TicksAtMost s (f s) ∧ (f s).held = s.held) :
    TicksAtMost s (foreground w f s) ∧ HoldsAtMostOne s (foreground w f s) := by
  obtain ⟨htick, hheld⟩ := hf
  rcases foreground_cases w f s with ⟨_, h⟩ | ⟨_, h⟩ <;> rw [h]
  · exact ⟨.inl rfl, .inr ⟨w, hw, rfl⟩⟩
  · exact ⟨htick, .inl hheld⟩

theorem exec_foreground_sender_held {i : Instr} {s t : State}
    (hi : i = .init ∨ i = .start ∨ i = .tick ∨ i = .rstream ∨ ∃ reg, i = .rdstat reg) (h : exec i s = .next t) :
    TicksAtMost s t ∧ HoldsAtMostOne s t := by
  rcases hi with rfl | rfl | rfl | rfl | ⟨reg, rfl⟩ <;> cases h
  · refine foreground_sender_held (by decide) ?_
    split <;> exact ⟨.inl rfl, rfl⟩
  · refine foreground_sender_held (by decide) ?_
    split
    · obtain ⟨hsender, hheld⟩ := startCalls_sender_held s
      exact ⟨.inl hsender, hheld⟩
    · exact ⟨.inl rfl, rfl⟩
  · refine foreground_sender_held (by decide) ?_
    split
    · exact ⟨.inr rfl, rfl⟩
    · exact ⟨.inl rfl, rfl⟩
  · refine foreground_sender_held (by decide) ?_
    split
    · obtain ⟨hsender, hheld⟩ := resetStream_sender_held s
      exact ⟨.inl hsender, hheld⟩
    · exact ⟨.inl rfl, rfl⟩
  · split <;> exact ⟨.inl rfl, .inl rfl⟩

theorem exec_foreground_framesSound {i : Instr} {s t : State}
    (hi : i = .init ∨ i = .start ∨ i = .tick ∨ i = .rstream ∨ ∃ reg, i = .rdstat reg) (h : exec i s = .next t)
    (hs : FramesSound s) : FramesSound t := by
  have hframe := exec_foreground hi h
  obtain ⟨htick, _⟩ := exec_foreground_sender_held hi h
  refine hs.congr hframe.cfg
    (queueContents_congr hframe.cfg hframe.qRead hframe.qWrite hframe.slots hframe.epoch) hframe.wf ?_
  exact htick.imp_right fun hdrain hsending => by cases hdrain.symm.trans hsending

/-! ### Every step -/

theorem exec_framesSound {i : Instr} {s t : State} (hl : lawfulInstr s.cfg i = true) (hi : Invariant s)
    (hs : FramesSound s) (h : exec i s = .next t) : FramesSound t := by
  cases i with
  | init => exact exec_foreground_framesSound (.inl rfl) h hs
  | start => exact exec_foreground_framesSound (.inr (.inl rfl)) h hs
  | tick => exact exec_foreground_framesSound (.inr (.inr (.inl rfl))) h hs
  | rstream => exact exec_foreground_framesSound (.inr (.inr (.inr (.inl rfl)))) h hs
  | rdstat reg => exact exec_foreground_framesSound (.inr (.inr (.inr (.inr ⟨reg, rfl⟩)))) h hs
  | evt a k =>
    cases h
    split
    · exact mark_framesSound a k hi hs
    · exact hs
  | dmawr a idx val =>
    cases h
    split
    · cases a <;> exact hs
    · exact hs
  | smpl v0 v1 =>
    simp only [exec, execSmpl] at h
    split at h
    · split at h
      · cases h; exact samplePeriod_framesSound v0 v1 hi hs
      · cases h
    · cases h; exact hs
  | pop =>
    cases h
    split
    · exact popStep_framesSound hi hs
    · exact hs
  | send =>
    cases h
    split
    · exact sendStep_framesSound hs
    · exact hs
  | mark | pack | push | lraise | fatal => cases hl

theorem powerOn_framesSound (c : Config) (epoch : Nat) (agenda : List Turn) (oracle : Oracle) :
    FramesSound (State.powerOn c epoch agenda oracle) := by
  have hcount : count c 0 0 = 0 := (empty_eq c 0 0 (modulus_pos _) (modulus_pos _)).mp rfl
  have hqueue : queueContents (State.powerOn c epoch agenda oracle) = [] := by
    show (List.range (count c 0 0)).map _ = []
    rw [hcount]
    rfl
  refine ⟨by simp [hqueue], fun hsending => ?_⟩
  cases hsending

theorem step_framesSound {s t : State} (hl : Lawful s) (hi : Invariant s) (hs : FramesSound s)
    (h : step s = .next t) : FramesSound t := by
  refine (step_keeps_lawful (P := fun u => Invariant u ∧ FramesSound u)
    ?bookkeeping ?rejected ?reset ?operation hl ⟨hi, hs⟩ h).2
  case bookkeeping => exact fun _ _ _ ⟨hu, hframes⟩ => ⟨{ hu with }, hframes⟩
  case rejected => exact fun w r _ ⟨hu, hframes⟩ => ⟨reject_invariant hu w r, hframes⟩
  case reset => exact fun _ _ => ⟨powerOn_invariant _ _ _ _, powerOn_framesSound _ _ _ _⟩
  case operation =>
    exact fun _ _ _ hlawful ⟨hu, hframes⟩ hexec =>
      ⟨exec_invariant hu hexec, exec_framesSound hlawful hu hframes hexec⟩

/-- Outside the foreground's operations, none writes the words that wait, and FATAL alone writes `life` (R40). -/
theorem exec_held_life {i : Instr} {s t : State} (h : exec i s = .next t) :
    (i = .init ∨ i = .start ∨ i = .tick ∨ i = .rstream ∨ ∃ reg, i = .rdstat reg)
      ∨ t.held = s.held ∧ (t.life = s.life ∨ ∃ cause, i = .fatal cause) := by
  have same : ∀ {u : State}, u.held = s.held → u.life = s.life →
      u.held = s.held ∧ (u.life = s.life ∨ ∃ cause, i = .fatal cause) := fun hheld hlife => ⟨hheld, .inl hlife⟩
  have producer : ∀ {u}, OnlyProducerWrites s u → _ := fun hu => same hu.held hu.life
  have consumer : ∀ {u}, OnlyConsumerWrites s u → _ := fun hu => same hu.held hu.life
  cases i with
  | init | start | tick | rstream | rdstat => simp
  | evt a k =>
    cases h
    split
    · exact .inr (producer ((mark_onlyProducerWrites a k s).trans rfl))
    · exact .inr ⟨rfl, .inl rfl⟩
  | dmawr a idx val =>
    cases h
    split
    · exact .inr ⟨writeSample_held s a _ val, .inl (writeSample_life s a _ val)⟩
    · exact .inr ⟨rfl, .inl rfl⟩
  | smpl v0 v1 =>
    simp only [exec, execSmpl] at h
    split at h
    · split at h
      · cases h
        have hevents := clockEvents_onlyProducerWrites (s.dmaPos + 1) (writePair v0 v1 s)
        exact .inr ⟨hevents.held, .inl hevents.life⟩
      · cases h
    · cases h; exact .inr ⟨rfl, .inl rfl⟩
  | mark a k => cases h; exact .inr (producer (mark_onlyProducerWrites a k s))
  | pack k => cases h; exact .inr (producer (pack_onlyProducerWrites k s))
  | push f => cases h; exact .inr (producer (publish_onlyProducerWrites f s))
  | pop =>
    cases h
    split
    · exact .inr (consumer (popStep_onlyConsumerWrites s))
    · exact .inr ⟨rfl, .inl rfl⟩
  | send =>
    cases h
    split
    · exact .inr (consumer (sendStep_onlyConsumerWrites s))
    · exact .inr ⟨rfl, .inl rfl⟩
  | lraise k => cases h; exact .inr ⟨rfl, .inl rfl⟩
  | fatal cause => cases h; exact .inr ⟨rfl, .inr ⟨cause, rfl⟩⟩

theorem exec_holdsAtMostOne {i : Instr} {s t : State} (h : exec i s = .next t) : HoldsAtMostOne s t := by
  rcases exec_held_life h with hi | ⟨hheld, _⟩
  · exact (exec_foreground_sender_held hi h).2
  · exact .inl hheld

theorem HoldsAtMostOne.all_foreground {s t : State} (h : HoldsAtMostOne s t)
    (hs : s.held.all isForegroundWord = true) : t.held.all isForegroundWord = true := by
  rcases h with h | ⟨w, hw, h⟩ <;> rw [h]
  · exact hs
  · rw [List.all_append, hs]
    simp [hw]

theorem accept_lawful {c : Code} {s t : State} (hs : Lawful s) (h : accept c s = .next t) : Lawful t := by
  obtain ⟨hagenda, hheld⟩ := hs
  rcases accept_next h with ⟨i, _, hexec⟩ | ⟨w, r, _, rfl⟩ | ⟨w, _, hw, _, rfl⟩
  · obtain ⟨hcfg, hag, _⟩ := exec_fixed hexec
    exact ⟨by rwa [hcfg, hag], (exec_holdsAtMostOne hexec).all_foreground hheld⟩
  · exact ⟨hagenda, hheld⟩
  · exact ⟨hagenda, HoldsAtMostOne.all_foreground (.inr ⟨w, hw, rfl⟩) hheld⟩

/-- The turns to come stay lawful: a step uses one up and adds none. -/
theorem step_lawful {s t : State} (hs : Lawful s) (h : step s = .next t) : Lawful t := by
  obtain ⟨hagenda, hheld⟩ := hs
  rcases step_next h with ⟨_, rfl⟩ | ⟨turn, rest, hag, hcase⟩
  · exact ⟨hagenda, hheld⟩
  · rw [hag, List.all_cons, Bool.and_eq_true] at hagenda
    rcases hcase with ⟨c, _, ha⟩ | ⟨_, _, rfl⟩ | ⟨w, ws, _, hw, _, ha⟩ | ⟨_, rfl⟩
    · exact accept_lawful (s := { s with agenda := rest }) ⟨hagenda.2, hheld⟩ ha
    · exact ⟨hagenda.2, hheld⟩
    · rw [hw, List.all_cons, Bool.and_eq_true] at hheld
      exact accept_lawful (s := { s with agenda := rest, held := ws }) ⟨hagenda.2, hheld.2⟩ ha
    · exact ⟨hagenda.2, rfl⟩

/-- Settles O56: under the invariant the ring gains only frames PACK built, `wf` only a frame of the ring, and a step adds no
turn. -/
theorem stepKeepsFramesSound : Obligations.StepKeepsFramesSound := fun _ _ hi hl hs hstep =>
  ⟨step_framesSound hl hi hs hstep, step_lawful hl hstep⟩

end Sys2Proof.Machine
end

section
/-! State (10_state.md): the status registers (R38, R273). -/

namespace Sys2Proof.Machine

theorem exec_rdstat_of_some {reg : BitVec 8} {s : State} {v : BitVec 32} (h : statusRegister reg s = some v) :
    exec (.rdstat reg) s = .next { s with history := s.history ++ [.txn (rdstatWord reg) (.data v)] } := by
  simp only [exec, execRdstat, h]
  rfl

theorem exec_rdstat_of_none {reg : BitVec 8} {s : State} (h : statusRegister reg s = none) :
    exec (.rdstat reg) s = .next (reject (rdstatWord reg) .reservedReg s) := by
  simp only [exec, execRdstat, h]

/-- No register has number 0x0F or a number from 0x15 on (R38). -/
theorem statusRegister_reserved {reg : BitVec 8} (h : reg = 0x0F ∨ 0x15 ≤ reg.toNat) (s : State) :
    statusRegister reg s = none := by
  have hreg : reg.toNat = 0x0F ∨ 0x15 ≤ reg.toNat := h.imp_left (congrArg BitVec.toNat)
  unfold statusRegister
  split
  case h_21 => rfl
  all_goals omega

/-- Settles O18: the number names no register, and then RDSTAT is rejected. -/
theorem rdstatReservedRejected : Obligations.RdstatReservedRejected := fun s _ hreg =>
  exec_rdstat_of_none (statusRegister_reserved hreg s)

/-- Settles O16: the register holds the value stated, and then RDSTAT answers it. -/
theorem rdstatReads : Obligations.RdstatReads := by
  intro s
  refine ⟨exec_rdstat_of_some ?life, exec_rdstat_of_some ?cause, exec_rdstat_of_some ?errCmd, exec_rdstat_of_some rfl,
    exec_rdstat_of_some rfl, exec_rdstat_of_some rfl, exec_rdstat_of_some rfl, exec_rdstat_of_some rfl,
    exec_rdstat_of_some rfl, exec_rdstat_of_some rfl, exec_rdstat_of_some rfl, exec_rdstat_of_some ?pcb,
    exec_rdstat_of_some ?sender, exec_rdstat_of_some rfl, exec_rdstat_of_some rfl, exec_rdstat_of_some rfl⟩
  case life => exact congrArg some (by cases s.life <;> rfl)
  case cause => exact congrArg some (by cases s.fatalCause <;> rfl)
  case errCmd => exact congrArg some (by cases s.errCmd <;> rfl)
  case pcb => exact congrArg some (by cases s.pcb <;> rfl)
  case sender => exact congrArg some (by cases s.sender <;> rfl)

/-! ### The packed registers: PENDING, Q_COUNT, CONFIG0 and CONFIG2 (R38) -/

/-- Five flags in bits 0 to 4 of a word. -/
theorem packedFlags : ∀ b0 b1 b2 b3 b4 : Bool,
    let v := BitVec.ofNat 32 (bitOf b0 + 2 * bitOf b1 + 4 * bitOf b2 + 8 * bitOf b3 + 16 * bitOf b4)
    v.getLsbD 0 = b0 ∧ v.getLsbD 1 = b1 ∧ v.getLsbD 2 = b2 ∧ v.getLsbD 3 = b3 ∧ v.getLsbD 4 = b4
      ∧ v.extractLsb' 5 27 = 0 := by decide

/-- Four flags in bits 0 to 3 of a word. -/
theorem pendingBits_bits (p : Pending) :
    let v := BitVec.ofNat 32 (pendingBits p)
    v.getLsbD 0 = p.get .adc0 .first ∧ v.getLsbD 1 = p.get .adc1 .first ∧ v.getLsbD 2 = p.get .adc0 .second
      ∧ v.getLsbD 3 = p.get .adc1 .second ∧ v.extractLsb' 4 28 = 0 := by
  obtain ⟨b0, b1, b2, b3⟩ := p
  revert b0 b1 b2 b3
  decide

theorem behaviourBits_bits (c : Config) :
    let v := BitVec.ofNat 32 (behaviourBits c)
    (v.getLsbD 0 = true ↔ c.queueFullRule = .moduloReserveOne) ∧ (v.getLsbD 1 = true ↔ c.indexOnQueueFull = .hold)
      ∧ (v.getLsbD 2 = true ↔ c.wireIndexSource = .stream) ∧ (v.getLsbD 3 = true ↔ c.seqAdvance = .onSuccess)
      ∧ (v.getLsbD 4 = true ↔ c.dmaEnv = .lockstep) ∧ v.extractLsb' 5 27 = 0 := by
  obtain ⟨h0, h1, h2, h3, h4, hrest⟩ := packedFlags (c.queueFullRule == .moduloReserveOne)
    (c.indexOnQueueFull == .hold) (c.wireIndexSource == .stream) (c.seqAdvance == .onSuccess) (c.dmaEnv == .lockstep)
  exact ⟨h0 ▸ beq_iff_eq, h1 ▸ beq_iff_eq, h2 ▸ beq_iff_eq, h3 ▸ beq_iff_eq, h4 ▸ beq_iff_eq, hrest⟩

/-- CONFIG0 as a number: three fields that do not overlap, since `S` is at most 1024 (R7, R38). -/
theorem config0_fields {n bits : Nat} (hn : n ≤ 1024) (hbits : bits < 256) :
    let v := BitVec.ofNat 32 (n + 2 ^ 16 * Config.channels + 2 ^ 24 * bits)
    v.extractLsb' 0 16 = BitVec.ofNat 16 n ∧ v.extractLsb' 16 8 = (2 : BitVec 8)
      ∧ v.extractLsb' 24 8 = BitVec.ofNat 8 bits := by
  have hv : (BitVec.ofNat 32 (n + 2 ^ 16 * Config.channels + 2 ^ 24 * bits)).toNat = n + 2 ^ 17 + 2 ^ 24 * bits := by
    rw [BitVec.toNat_ofNat, Config.channels]
    omega
  refine ⟨BitVec.eq_of_toNat_eq ?_, BitVec.eq_of_toNat_eq ?_, BitVec.eq_of_toNat_eq ?_⟩ <;> rw [extract_toNat, hv]
  · rw [BitVec.toNat_ofNat]
    omega
  · show (n + 2 ^ 17 + 2 ^ 24 * bits) / 2 ^ 16 % 2 ^ 8 = 2
    omega
  · rw [BitVec.toNat_ofNat]
    omega

/-- Settles O17: PENDING and CONFIG2 are flags side by side, CONFIG0 is three fields, and the occupancy fits its register. -/
theorem rdstatPacks : Obligations.RdstatPacks := by
  intro s
  refine ⟨⟨_, exec_rdstat_of_some rfl, pendingBits_bits s.pending⟩, fun hr hw => ?occupancy, ?config0,
    ⟨_, exec_rdstat_of_some rfl, behaviourBits_bits s.cfg⟩⟩
  case occupancy =>
    have hlt := count_lt s.cfg s.qRead s.qWrite
    have hmodulus := modulus_le s.cfg
    have hv : (BitVec.ofNat 32 (count s.cfg s.qRead s.qWrite)).toNat = count s.cfg s.qRead s.qWrite := by
      rw [BitVec.toNat_ofNat]
      exact Nat.mod_eq_of_lt (by omega)
    exact ⟨_, exec_rdstat_of_some rfl, by rw [hv, read_add_count s.cfg hr hw], hv.symm ▸ hlt⟩
  case config0 =>
    have hbits : SampleBits.toNat s.cfg.sampleBits < 256 := by cases s.cfg.sampleBits <;> decide
    obtain ⟨hS, hchannels, hwidth⟩ := config0_fields s.cfg.sRange.2 hbits
    refine ⟨_, exec_rdstat_of_some rfl, hS, hchannels, hwidth.trans ?_⟩
    cases s.cfg.sampleBits <;> rfl

end Sys2Proof.Machine
end

section
/-! State (10_state.md): the history and `err_cmd` (R24, R50), who writes which field (R40, R166), and `life` (R22, R274). -/

namespace Sys2Proof.Machine

/-! ### Operations that do not read the history (R50) -/

/-- `s` with any other history. -/
def withHistory (h : List Event) (s : State) : State := { s with history := h }

/-- An event that is not a REJECT. -/
def isNotReject : Event → Bool
  | .txn _ (.reject _) => false
  | _ => true

/-- From `s`, `f` adds events of which none is a REJECT, keeps `err_cmd`, and does the same whatever the history is. -/
def Proceeds (f : State → State) (s : State) : Prop :=
  ∃ new, new.all isNotReject = true ∧ (f s).errCmd = s.errCmd
    ∧ ∀ h, f (withHistory h s) = withHistory (h ++ new) (f s)

namespace Proceeds

variable {s : State} {f g : State → State}

theorem silent (herr : (f s).errCmd = s.errCmd) (hf : ∀ h, f (withHistory h s) = withHistory h (f s)) : Proceeds f s :=
  ⟨[], rfl, herr, fun h => by rw [List.append_nil, hf]⟩

theorem one {e : Event} (he : isNotReject e = true) (herr : (f s).errCmd = s.errCmd)
    (hf : ∀ h, f (withHistory h s) = withHistory (h ++ [e]) (f s)) : Proceeds f s :=
  ⟨[e], by simp [he], herr, hf⟩

theorem comp (hg : Proceeds g (f s)) (hf : Proceeds f s) : Proceeds (fun u => g (f u)) s := by
  obtain ⟨new, hnew, herr, hblind⟩ := hf
  obtain ⟨new', hnew', herr', hblind'⟩ := hg
  refine ⟨new ++ new', by rw [List.all_append, hnew, hnew']; rfl, herr'.trans herr, fun h => ?_⟩
  dsimp only
  rw [hblind, hblind', List.append_assoc]

/-- `f` proceeds where it does what `g` does, whatever the history is. -/
theorem of_eq (hg : Proceeds g s) (hfg : ∀ h, f (withHistory h s) = g (withHistory h s)) : Proceeds f s := by
  have hs : f s = g s := hfg s.history
  obtain ⟨new, hnew, herr, hblind⟩ := hg
  exact ⟨new, hnew, by rw [hs, herr], fun h => by rw [hfg, hblind, hs]⟩

/-- A choice that is not made by the history. -/
theorem ite {c : State → Prop} [DecidablePred c] (hc : ∀ h, c (withHistory h s) ↔ c s) (hf : c s → Proceeds f s)
    (hg : ¬ c s → Proceeds g s) : Proceeds (fun u => if c u then f u else g u) s := by
  by_cases h : c s
  · exact (hf h).of_eq fun k => if_pos ((hc k).mpr h)
  · exact (hg h).of_eq fun k => if_neg (mt (hc k).mp h)

theorem unchanged : Proceeds (fun u => u) s := silent rfl fun _ => rfl
theorem record {e : Event} (he : isNotReject e = true) : Proceeds (record e) s := one he rfl fun _ => rfl
theorem ack (w : TxnWord) : Proceeds (respond w .ack) s := record rfl
theorem fail (w : TxnWord) : Proceeds (respond w .fail) s := record rfl
theorem raiseDrop (k : DropKind) : Proceeds (raiseDrop k) s := one rfl rfl fun _ => rfl
theorem raiseFatal (cause : FatalCause) : Proceeds (raiseFatal cause) s := one rfl rfl fun _ => rfl
theorem callBool (c : HostCall) : Proceeds (callBool c) s :=
  one (e := .host c (.bool (answerNow s))) rfl rfl fun _ => rfl
theorem callNone (c : HostCall) : Proceeds (callNone c) s := record rfl
theorem callUdpNew : Proceeds callUdpNew s :=
  one (e := .host .udpNew (.handle (handleNow s))) rfl rfl fun _ => rfl

end Proceeds

/-! ### The producer -/

variable (s : State)

theorem publish_proceeds (f : Frame) : Proceeds (publish f) s := by
  cases hfull : queueFull s
  · have hstored : Proceeds (enqueue f) s := .silent rfl fun _ => rfl
    exact (Proceeds.comp (.record (e := .published (slotIndex s.cfg s.qWrite) f.firstSampleIdx f.flags) rfl) hstored).of_eq
      fun h => publish_of_not_full f (withHistory h s) hfull
  · exact Proceeds.unchanged.of_eq fun h => publish_of_full f (withHistory h s) hfull

theorem discardHalf_proceeds : Proceeds discardHalf s := by
  have hdrop : Proceeds (raiseDrop .queueFull) s := .raiseDrop _
  cases hrule : s.cfg.indexOnQueueFull
  case advance =>
    refine (Proceeds.comp (g := advanceIndex) (.silent rfl fun _ => rfl) hdrop).of_eq fun h => ?_
    simp [discardHalf, withHistory, hrule]
  case hold =>
    refine hdrop.of_eq fun h => ?_
    simp [discardHalf, withHistory, hrule]

theorem pack_proceeds (h : Half) : Proceeds (pack h) s := by
  unfold pack
  refine .ite (fun _ => Iff.rfl) (fun _ => .unchanged) fun _ => ?_
  refine .ite (fun _ => Iff.rfl) (fun _ => discardHalf_proceeds s) fun _ => ?_
  have hclear : Proceeds (fun u => clearLatch (advanceIndex u)) s := .silent rfl fun _ => rfl
  exact ((publish_proceeds _ (buildFrame h s)).comp hclear).of_eq fun _ => rfl

theorem mark_proceeds (a : Adc) (h : Half) : Proceeds (mark a h) s := by
  have hsignal : Proceeds (resignal a h) s := .ite (fun _ => Iff.rfl) (fun _ => .raiseDrop _) fun _ => .unchanged
  have hset : Proceeds (setPending a h) (resignal a h s) := .silent rfl fun _ => rfl
  have hpair : ∀ u, Proceeds (completePair h) u := fun u =>
    .ite (fun _ => Iff.rfl)
      (fun _ => .comp (g := pack h) (f := fun v => { v with pending := v.pending.clearHalf h }) (pack_proceeds _ h)
        (.silent rfl fun _ => rfl))
      fun _ => .unchanged
  exact (hpair _).comp (hset.comp hsignal)

theorem samplePeriod_proceeds (v0 v1 : Sample) : Proceeds (samplePeriod v0 v1) s := by
  have hwrite : Proceeds (writePair v0 v1) s := .silent rfl fun _ => rfl
  have hboth : ∀ h u, Proceeds (markBoth h) u := fun h u => (mark_proceeds _ .adc1 h).comp (mark_proceeds u .adc0 h)
  have hevents : ∀ p u, Proceeds (clockEvents p) u := fun p u => by
    rw [funext (clockEvents_eq p)]
    exact .ite (fun _ => Iff.rfl) (fun _ => hboth .first u) fun _ =>
      .ite (fun _ => Iff.rfl) (fun _ => hboth .second u) fun _ => .unchanged
  exact Proceeds.of_eq (.comp (g := fun u => { u with dmaPos := wrapPos s.cfg (s.dmaPos + 1) })
    (.silent rfl fun _ => rfl) (.comp (hevents (s.dmaPos + 1) _) hwrite)) fun _ => rfl

/-! ### The consumer -/

theorem popStep_proceeds : Proceeds popStep s :=
  .ite (fun _ => Iff.rfl) (fun _ => .silent rfl fun _ => rfl) fun _ => .silent rfl fun _ => rfl

theorem sendFrame_proceeds (p : Handle) : Proceeds (sendFrame p) s := by
  cases halloc : answerAt s 0
  case false =>
    exact Proceeds.of_eq (.comp (.raiseDrop .allocFail) (.callBool (.alloc (datagramLength s))))
      fun h => sendFrame_of_no_alloc p (withHistory h s) halloc
  case true =>
    refine ⟨[.host (.alloc (datagramLength s)) (.bool true), .host (.send p (formDatagram s)) (.bool (answerAt s 1)),
        .host (.free (datagramLength s)) .none, .datagram (formDatagram s) (answerAt s 1)]
      ++ if answerAt s 1 then [] else [.drop .sendFail], ?_, ?_, fun h => ?_⟩
    · cases answerAt s 1 <;> rfl
    · rw [sendFrame_of_alloc p s halloc]
    · rw [sendFrame_of_alloc p s halloc, sendFrame_of_alloc p (withHistory h s) halloc, ← List.append_assoc]
      rfl

theorem sendStep_proceeds : Proceeds sendStep s := by
  have hdrain : Proceeds (fun u => { u with sender := .draining }) s := .silent rfl fun _ => rfl
  cases hvalid : frameSendable s
  case false =>
    exact Proceeds.of_eq (.comp (.raiseDrop .invalidFrame) hdrain)
      fun h => sendStep_of_invalid (withHistory h s) hvalid
  case true =>
    obtain ⟨p, hp⟩ := frameSendable_pcb hvalid
    exact ((sendFrame_proceeds _ p).comp hdrain).of_eq fun h => sendStep_of_sendable (withHistory h s) hvalid hp

/-! ### START and RSTREAM -/

theorem startFails_proceeds (cause : FatalCause) : Proceeds (startFails cause) s :=
  Proceeds.comp (g := respond startWord .fail) (f := raiseFatal cause) (.fail _) (.raiseFatal _)

theorem running_proceeds : Proceeds running s := by
  cases henv : s.cfg.dmaEnv
  case free =>
    refine Proceeds.of_eq (g := fun u => { u with life := .running }) (.silent rfl fun _ => rfl) fun h => ?_
    simp [running, withHistory, henv]
  case lockstep =>
    refine Proceeds.of_eq (g := fun u => { u with dmaArmed := true, dmaPos := 0, life := .running })
      (.silent rfl fun _ => rfl) fun h => ?_
    simp [running, withHistory, henv]

theorem startCalls_proceeds : Proceeds startCalls s := by
  have h0 : Proceeds (callBool (.dmaStart .adc0)) s := .callBool _
  have h1 := Proceeds.comp (.callBool (.dmaStart .adc1)) h0
  have h2 := Proceeds.comp (.callBool .timerStart) h1
  unfold startCalls
  dsimp only
  refine .ite (fun _ => Iff.rfl) (fun _ => .comp (startFails_proceeds _ _) h0) fun _ => ?_
  refine .ite (fun _ => Iff.rfl) (fun _ => .comp (startFails_proceeds _ _) h1) fun _ => ?_
  refine .ite (fun _ => Iff.rfl) (fun _ => .comp (startFails_proceeds _ _) h2) fun _ => ?_
  exact .comp (.ack startWord) (.comp (running_proceeds _) h2)

theorem tearDown_proceeds : Proceeds tearDown s := by
  refine ⟨releaseEvents s.pcb, ?_, ?_, fun h => ?_⟩
  · cases s.pcb <;> rfl
  · rw [tearDown_eq]
  · rw [tearDown_eq, tearDown_eq]
    rfl

theorem connectStream_proceeds (p : Handle) : Proceeds (connectStream p) s := by
  have hcall : Proceeds (fun u => callBool (.udpConnect p u.cfg.destIp u.cfg.destPort) u) s :=
    (Proceeds.callBool (.udpConnect p s.cfg.destIp s.cfg.destPort)).of_eq fun _ => rfl
  unfold connectStream
  dsimp only
  refine .ite (fun _ => Iff.rfl) (fun _ => ?_) fun _ => ?_
  · exact .comp (.ack rstreamWord) (.comp (g := fun u => { u with pcb := some p }) (.silent rfl fun _ => rfl) hcall)
  · exact .comp (.fail rstreamWord) (.comp (.raiseFatal .pcbConnectFail) (.comp (.callNone (.pcbRelease p)) hcall))

theorem resetStream_proceeds : Proceeds resetStream s := by
  have hnew : Proceeds (fun u => callUdpNew (tearDown u)) s := .comp .callUdpNew (tearDown_proceeds s)
  cases hhandle : handleNow s
  case none =>
    refine Proceeds.of_eq (.comp (.fail rstreamWord) (.comp (.raiseFatal .pcbNewFail) hnew)) fun h => ?_
    simp [resetStream, show handleNow (withHistory h s) = none from hhandle]
  case some p =>
    refine (Proceeds.comp (connectStream_proceeds _ p) hnew).of_eq fun h => ?_
    simp [resetStream, show handleNow (withHistory h s) = some p from hhandle]

/-! ### Every operation: a rejection, or a step that proceeds -/

/-- From `s` with any history, the operation answers what `f` makes of that state. -/
def Does (i : Instr) (s : State) (f : State → State) : Prop :=
  ∀ h, exec i (withHistory h s) = .next (f (withHistory h s))

/-- From `s`, the operation is rejected and writes nothing but `err_cmd`, or it proceeds. -/
def RejectsOrProceeds (i : Instr) (s : State) : Prop :=
  (∃ w r, Does i s (reject w r)) ∨ ∃ f, Does i s f ∧ Proceeds f s

section
variable {s} {i : Instr}

theorem RejectsOrProceeds.proceeds {f : State → State} (hexec : ∀ u, exec i u = .next (f u)) (hf : Proceeds f s) :
    RejectsOrProceeds i s :=
  .inr ⟨f, fun _ => hexec _, hf⟩

/-- A transaction that is admitted on a condition, and else rejected (R97, R270). -/
theorem RejectsOrProceeds.admits {c : State → Prop} [DecidablePred c] {f : State → State} {w : TxnWord}
    {r : RejectReason} (hexec : ∀ u, exec i u = .next (if c u then f u else reject w r u))
    (hc : ∀ h, c (withHistory h s) ↔ c s) (hf : c s → Proceeds f s) : RejectsOrProceeds i s := by
  by_cases h : c s
  · exact .inr ⟨f, fun k => by rw [hexec, if_pos ((hc k).mpr h)], hf h⟩
  · exact .inl ⟨w, r, fun k => by rw [hexec, if_neg (mt (hc k).mp h)]⟩

/-- A foreground transaction waits, or is admitted on a condition, or is rejected (R270, R275). -/
theorem RejectsOrProceeds.foreground {c : State → Prop} [DecidablePred c] {f : State → State} {w : TxnWord}
    {r : RejectReason}
    (hexec : ∀ u, exec i u = .next (foreground w (fun u => if c u then f u else reject w r u) u))
    (hc : ∀ h, c (withHistory h s) ↔ c s) (hf : c s → Proceeds f s) : RejectsOrProceeds i s := by
  cases hholding : holding s
  case true =>
    refine .inr ⟨hold w, fun k => ?_, .silent rfl fun _ => rfl⟩
    rw [hexec, Machine.foreground, if_pos (show holding (withHistory k s) = true from hholding)]
  case false =>
    have hperform : ∀ k, exec i (withHistory k s)
        = .next (if c (withHistory k s) then f (withHistory k s) else reject w r (withHistory k s)) := fun k => by
      have hfree : holding (withHistory k s) = false := hholding
      rw [hexec, Machine.foreground, if_neg (Bool.eq_false_iff.mp hfree)]
    by_cases h : c s
    · exact .inr ⟨f, fun k => by rw [hperform, if_pos ((hc k).mpr h)], hf h⟩
    · exact .inl ⟨w, r, fun k => by rw [hperform, if_neg (mt (hc k).mp h)]⟩

end

theorem exec_rejectsOrProceeds {i : Instr} {s t : State} (h : exec i s = .next t) : RejectsOrProceeds i s := by
  cases i with
  | init =>
    exact .foreground (fun _ => rfl) (fun _ => Iff.rfl) fun _ => .comp (.ack initWord) (.silent rfl fun _ => rfl)
  | start => exact .foreground (fun _ => rfl) (fun _ => Iff.rfl) fun _ => startCalls_proceeds s
  | tick =>
    exact .foreground (fun _ => rfl) (fun _ => Iff.rfl) fun _ =>
      .comp (g := respond tickWord .ack) (f := fun u => { u with sender := .draining }) (.ack _) (.silent rfl fun _ => rfl)
  | rstream => exact .foreground (fun _ => rfl) (fun _ => Iff.rfl) fun _ => resetStream_proceeds s
  | evt a k =>
    exact .proceeds (fun _ => rfl)
      (.ite (fun _ => Iff.rfl) (fun _ => .comp (.ack (evtWord a k)) (mark_proceeds s a k)) fun _ => .record rfl)
  | dmawr a idx val =>
    exact .admits (fun _ => rfl) (fun _ => Iff.rfl) fun _ =>
      .comp (.ack (dmawrWord a idx val)) (.silent (writeSample_errCmd s _ _ _) fun _ => by cases a <;> rfl)
  | rdstat reg =>
    cases hreg : statusRegister reg s with
    | some v =>
      have hdoes : Does (.rdstat reg) s (respond (rdstatWord reg) (.data v)) := fun k =>
        exec_rdstat_of_some (s := withHistory k s) hreg
      exact .inr ⟨_, hdoes, .record rfl⟩
    | none =>
      exact .inl ⟨rdstatWord reg, .reservedReg, fun k => exec_rdstat_of_none (s := withHistory k s) hreg⟩
  | smpl v0 v1 =>
    have hperform : ∀ k, exec (.smpl v0 v1) (withHistory k s)
        = if smplEnabled s then
            if s.dmaPos < 2 * s.cfg.S then .next (samplePeriod v0 v1 (withHistory k s))
            else .fault (.noSuchElement s.dmaPos)
          else .next (withHistory k s) := fun _ => rfl
    by_cases henabled : smplEnabled s = true
    · by_cases hpos : s.dmaPos < 2 * s.cfg.S
      · exact .inr ⟨samplePeriod v0 v1, fun k => by rw [hperform, if_pos henabled, if_pos hpos],
          samplePeriod_proceeds s v0 v1⟩
      · have hfault := hperform s.history
        rw [if_pos henabled, if_neg hpos] at hfault
        cases hfault.symm.trans h
    · exact .inr ⟨fun u => u, fun k => by rw [hperform, if_neg henabled], .unchanged⟩
  | mark a k => exact .proceeds (fun _ => rfl) (mark_proceeds s a k)
  | pack k => exact .proceeds (fun _ => rfl) (pack_proceeds s k)
  | push f => exact .proceeds (fun _ => rfl) (publish_proceeds s f)
  | pop =>
    exact .proceeds (fun _ => rfl) (.ite (fun _ => Iff.rfl) (fun _ => popStep_proceeds s) fun _ => .unchanged)
  | send =>
    exact .proceeds (fun _ => rfl) (.ite (fun _ => Iff.rfl) (fun _ => sendStep_proceeds s) fun _ => .unchanged)
  | lraise k => exact .proceeds (fun _ => rfl) (.raiseDrop k)
  | fatal cause => exact .proceeds (fun _ => rfl) (.raiseFatal cause)

/-- Settles O48: a rejection appends its own event, and an operation that proceeds appends the same events to any history. -/
theorem historyIsNotRead : Obligations.HistoryIsNotRead := by
  intro i s t h hexec
  rcases exec_rejectsOrProceeds hexec with ⟨w, r, hdoes⟩ | ⟨f, hdoes, new, _, _, hblind⟩
  · cases hexec.symm.trans (hdoes s.history)
    exact ⟨[.txn w (.reject r)], rfl, hdoes h⟩
  · cases hexec.symm.trans (hdoes s.history)
    have hown := hblind s.history
    refine ⟨new, by rw [hown]; rfl, ?_⟩
    calc exec i (withHistory h s) = .next (f (withHistory h s)) := hdoes h
      _ = .next (withHistory (h ++ new) (f s)) := by rw [hblind]
      _ = .next (withHistory (h ++ new) (f (withHistory s.history s))) := rfl

/-! ### `err_cmd` (R24) -/

/-- `t` is `s` answered with a rejection, or it has the same `err_cmd` and no REJECT recorded since `s`. -/
def RejectedOrQuiet (s t : State) : Prop :=
  (∃ w r, t = reject w r s) ∨ t.errCmd = s.errCmd ∧ Adds isNotReject s t

theorem exec_rejectedOrQuiet {i : Instr} {s t : State} (h : exec i s = .next t) : RejectedOrQuiet s t := by
  rcases exec_rejectsOrProceeds h with ⟨w, r, hdoes⟩ | ⟨f, hdoes, new, hnew, herr, hblind⟩
  · cases h.symm.trans (hdoes s.history)
    exact .inl ⟨w, r, rfl⟩
  · cases h.symm.trans (hdoes s.history)
    exact .inr ⟨herr, new, congrArg State.history (hblind s.history), hnew⟩

theorem accept_rejectedOrQuiet {c : Code} {s t : State} (h : accept c s = .next t) : RejectedOrQuiet s t := by
  rcases accept_next h with ⟨i, _, hexec⟩ | ⟨w, r, _, rfl⟩ | ⟨w, _, _, _, rfl⟩
  · exact exec_rejectedOrQuiet hexec
  · exact .inl ⟨w, r, rfl⟩
  · exact .inr ⟨rfl, [], by simp, rfl⟩

/-- Short of a power-on reset, a step uses up its turn, and perhaps a waiting word, and is then rejected or sets no
`err_cmd`. -/
theorem step_rejectedOrQuiet {s t : State} (hturn : s.agenda.head? ≠ some .powerOn) (h : step s = .next t) :
    ∃ ws, RejectedOrQuiet { s with agenda := s.agenda.tail, held := ws } t := by
  have hquiet : ∀ u, RejectedOrQuiet u u := fun u => .inr ⟨rfl, Adds.refl _ u⟩
  rcases step_next h with ⟨hnil, rfl⟩ | ⟨turn, rest, hag, hcase⟩
  · exact ⟨t.held, .inr ⟨rfl, [], by simp, rfl⟩⟩
  · obtain rfl : rest = s.agenda.tail := by rw [hag]; rfl
    rcases hcase with ⟨c, _, ha⟩ | ⟨_, _, rfl⟩ | ⟨w, ws, _, _, _, ha⟩ | ⟨rfl, _⟩
    · exact ⟨s.held, accept_rejectedOrQuiet ha⟩
    · exact ⟨s.held, hquiet _⟩
    · exact ⟨ws, accept_rejectedOrQuiet ha⟩
    · exact absurd (by rw [hag]; rfl) hturn

/-- Settles O49: a step is rejected, and then all three clauses are what a rejection does, or it keeps `err_cmd` and its last
event is no REJECT. -/
theorem errCmdIsSticky : Obligations.ErrCmdIsSticky := by
  intro s t hturn hstep
  obtain ⟨ws, ⟨w, r, rfl⟩ | ⟨herr, new, hnew, hall⟩⟩ := step_rejectedOrQuiet hturn hstep
  · exact ⟨fun _ => rfl, fun _ _ _ _ => rfl, fun _ _ => ⟨w, r, rfl⟩⟩
  · refine ⟨fun hset => herr.trans hset, fun new' w r hlast => ?_, fun hclear hset => ?_⟩
    · have hsame : new = new' ++ [.txn w (.reject r)] := by
        rw [hnew, List.append_assoc] at hlast
        exact List.append_cancel_left hlast
      rw [hsame, List.all_append] at hall
      simp [isNotReject] at hall
    · exact absurd (hclear.symm.trans (herr.symm.trans hset)) Bool.false_ne_true

/-! ### Ownership (R40, R166) -/

/-- Settles O50: an EVT is MARK and a record, and MARK, PACK and PUSH each have the producer's frame. -/
theorem producerOwnership : Obligations.ProducerOwnership := by
  intro i s t hi hexec
  have hframe : OnlyProducerWrites s t := by
    rcases hi with ⟨a, h, rfl⟩ | ⟨a, h, rfl⟩ | ⟨h, rfl⟩ | ⟨f, rfl⟩ <;> cases hexec
    · split
      · exact (mark_onlyProducerWrites a h s).trans (record_onlyProducerWrites _ _)
      · exact record_onlyProducerWrites _ s
    · exact mark_onlyProducerWrites a h s
    · exact pack_onlyProducerWrites h s
    · exact publish_onlyProducerWrites f s
  exact ⟨hframe, hframe.sameBuffers⟩

/-- Settles O51: where POP or SEND is enabled it has the consumer's frame, and elsewhere it changes nothing. -/
theorem consumerOwnership : Obligations.ConsumerOwnership := by
  intro i s t hi hexec
  have hframe : OnlyConsumerWrites s t := by
    rcases hi with rfl | rfl <;> cases hexec
    · split
      · exact popStep_onlyConsumerWrites s
      · exact .refl s
    · split
      · exact sendStep_onlyConsumerWrites s
      · exact .refl s
  exact ⟨hframe, hframe.sameSlots, hframe.sameBuffers⟩

/-- Settles O32: a full queue is left as it is; else one slot is written and `q_write` moves on. -/
theorem pushStores : Obligations.PushStores := by
  intro s f
  refine ⟨fun hfull => congrArg _ (publish_of_full f s hfull), fun hfull => ?_⟩
  have hslot : ∀ k, readSlot k (publish f s) = readSlot k (writeSlot (slotIndex s.cfg s.qWrite) f s) := fun k => by
    rw [publish_of_not_full f s hfull]
    rfl
  refine ⟨publish f s, rfl, ?_, fun k hk => ?_, (publish_onlyProducerWrites f s).sameBuffers, ?_⟩
  · exact (hslot _).trans (readSlot_writeSlot_self _ f s)
  · exact (hslot k).trans (readSlot_writeSlot_other f s hk)
  · rw [publish_of_not_full f s hfull]
    rfl

/-! ### The lifecycle (R22, R274) -/

/-- What an operation can do to `life`: INIT, START and the ways into FATAL, with a cause some rule raises (R302). -/
def LifeMoves (s t : State) : Prop :=
  t.life = s.life
    ∨ (s.life = .off ∧ t.life = .ready)
    ∨ (s.life = .ready ∧ t.life = .running)
    ∨ ((s.life = .ready ∨ s.life = .running) ∧ t.life = .fatal ∧ t.fatalCause.isRaised = true)

theorem foreground_lifeMoves (w : TxnWord) {f : State → State} {s : State} (hf : LifeMoves s (f s)) :
    LifeMoves s (foreground w f s) := by
  rcases foreground_cases w f s with ⟨_, h⟩ | ⟨_, h⟩ <;> rw [h]
  · exact .inl rfl
  · exact hf

theorem running_life (s : State) : (running s).life = .running := by
  unfold running
  split <;> rfl

theorem startCalls_lifeMoves {s : State} (hready : s.life = .ready) : LifeMoves s (startCalls s) := by
  have hfails : ∀ {cause u}, cause.isRaised = true → LifeMoves s (startFails cause u) := fun hcause =>
    .inr (.inr (.inr ⟨.inl hready, rfl, hcause⟩))
  unfold startCalls
  dsimp only
  split
  · exact hfails rfl
  · split
    · exact hfails rfl
    · split
      · exact hfails rfl
      · exact .inr (.inr (.inl ⟨hready, running_life _⟩))

theorem resetStream_lifeMoves {s : State} (hlife : s.life = .ready ∨ s.life = .running) :
    LifeMoves s (resetStream s) := by
  have htorn : (tearDown s).life = s.life := by rw [tearDown_eq]
  unfold resetStream connectStream
  dsimp only
  split
  · exact .inr (.inr (.inr ⟨hlife, rfl, rfl⟩))
  · split
    · exact .inl htorn
    · exact .inr (.inr (.inr ⟨hlife, rfl, rfl⟩))

theorem exec_foreground_lifeMoves {i : Instr} {s t : State}
    (hi : i = .init ∨ i = .start ∨ i = .tick ∨ i = .rstream ∨ ∃ reg, i = .rdstat reg) (h : exec i s = .next t) :
    LifeMoves s t := by
  rcases hi with rfl | rfl | rfl | rfl | ⟨reg, rfl⟩ <;> cases h
  · refine foreground_lifeMoves _ ?_
    split
    · exact .inr (.inl ⟨by assumption, rfl⟩)
    · exact .inl rfl
  · refine foreground_lifeMoves _ ?_
    split
    · exact startCalls_lifeMoves (by assumption)
    · exact .inl rfl
  · refine foreground_lifeMoves _ ?_
    split <;> exact .inl rfl
  · refine foreground_lifeMoves _ ?_
    split
    · exact resetStream_lifeMoves ((inService_iff s).mp (by assumption))
    · exact .inl rfl
  · split <;> exact .inl rfl

theorem exec_lifeMoves {i : Instr} {s t : State} (hl : lawfulInstr s.cfg i = true) (h : exec i s = .next t) :
    LifeMoves s t := by
  rcases exec_held_life h with hi | ⟨_, hlife | ⟨cause, rfl⟩⟩
  · exact exec_foreground_lifeMoves hi h
  · exact .inl hlife
  · cases hl

/-- Bookkeeping, a rejection and a wait keep `life`; only a power-on turn does what no operation does. -/
theorem step_lifeMoves {s t : State} (hl : Lawful s) (hstep : step s = .next t) :
    LifeMoves s t ∨ (t.life = .off ∧ s.agenda.head? = some .powerOn) := by
  refine step_cases_lawful (R := fun s t => LifeMoves s t ∨ (t.life = .off ∧ s.agenda.head? = some .powerOn))
    hl hstep ?idle ?used ?rejected ?waits ?operation ?reset
  case idle => exact fun _ => .inl (.inl rfl)
  case used => exact fun _ _ => .inl (.inl rfl)
  case rejected => exact fun _ _ _ _ => .inl (.inl rfl)
  case waits => exact fun _ _ _ _ _ => .inl (.inl rfl)
  case operation =>
    exact fun ws _ _ hlawful hexec =>
      .inl (exec_lifeMoves (s := { s with agenda := s.agenda.tail, held := ws }) hlawful hexec)
  case reset => exact fun hturn => .inr ⟨rfl, hturn⟩

/-- Settles O21: a lawful step moves `life` as an operation can, or is a power-on reset. -/
theorem lifeTransitions : Obligations.LifeTransitions := by
  intro s t hl hstep
  rcases step_lifeMoves hl hstep with hmoves | hreset
  · exact hmoves.imp_right (.imp_right (.imp_right .inl))
  · exact .inr (.inr (.inr (.inr hreset)))

end Sys2Proof.Machine
end

section
/-! State (10_state.md): what a power-on reset leaves (R39, R307, R340). -/

namespace Sys2Proof.Machine

theorem powerOn_pending (c : Config) (epoch : Nat) (agenda : List Turn) (oracle : Oracle) (a : Adc) (h : Half) :
    (State.powerOn c epoch agenda oracle).pending.get a h = false := by
  cases a <;> cases h <;> rfl

/-- Settles O10: each field of R39's table, as `State.powerOn` lists it. -/
theorem resetState : Obligations.ResetState :=
  ⟨rfl, rfl, rfl, rfl, powerOn_pending _ _ _ _, rfl, rfl, rfl, rfl, rfl, rfl, rfl, rfl, rfl, rfl⟩

/-- Settles O11: the turn is used up, and the state after it is the next power-on's; with nothing listed in a memory, every
read answers what that power-on left there. -/
theorem powerOnResets : Obligations.PowerOnResets := by
  intro s rest hagenda
  refine ⟨State.powerOn s.cfg (s.epoch + 1) rest s.oracle, step_of_cons hagenda, rfl, rfl, rfl, rfl,
    powerOn_pending _ _ _ _, rfl, rfl, rfl, rfl, rfl, rfl, rfl, rfl, rfl, rfl, rfl, rfl, rfl, fun a i => ?_, fun k => rfl⟩
  cases a <;> rfl

/-- Settles O57: the ring is empty, no turn is to come, and an empty history leads to a clear latch and to zero. -/
theorem lawsReset : Obligations.LawsReset := by
  have hnone : ∀ {before after : List Event} {e}, State.reset.history ≠ before ++ e :: after := by
    simp [State.reset, State.powerOn]
  refine ⟨powerOn_framesSound _ _ _ _, ⟨rfl, rfl⟩, ?flags, ?index, ?sequence⟩
  case flags => exact { now := rfl, published := fun _ _ _ _ _ h => (hnone h).elim, beforeInit := fun _ => rfl }
  case index => exact { now := rfl, published := fun _ _ _ _ _ h => (hnone h).elim, beforeInit := fun _ => rfl }
  case sequence => exact { now := rfl, formed := fun _ _ _ _ h => (hnone h).elim }

end Sys2Proof.Machine
end

section
/-! Memory spaces and the wire (20_memory.md): a receiver reads back the header and the samples (R64, R100, R101, R103), and
the MARK that completes a pair (R75, R136). -/

namespace Sys2Proof.Machine

/-! ### Little-endian fields (R64) -/

/-- The low byte comes first, and the bytes after it are those of the value shifted down by a byte. -/
theorem littleEndian_succ {w : Nat} (n : Nat) (v : BitVec w) :
    littleEndian (n + 1) v = v.extractLsb' 0 8 :: littleEndian n (v >>> 8) := by
  have hbyte (k : Nat) : v.extractLsb' (8 * (k + 1)) 8 = (v >>> 8).extractLsb' (8 * k) 8 := by
    apply BitVec.eq_of_toNat_eq
    rw [BitVec.extractLsb'_toNat, BitVec.extractLsb'_toNat, BitVec.toNat_ushiftRight, ← Nat.shiftRight_add,
      Nat.mul_succ, Nat.add_comm]
  simp [littleEndian, List.range_succ_eq_map, Function.comp_def, hbyte]

/-- `n` bytes hold the value modulo `256^n`. -/
theorem fromBytes_littleEndian_eq_mod {w : Nat} (n : Nat) (v : BitVec w) :
    fromBytes (littleEndian n v) = v.toNat % 256 ^ n := by
  induction n generalizing v with
  | zero => simp [littleEndian, fromBytes, Nat.mod_one]
  | succ n ih =>
    rw [littleEndian_succ, fromBytes, ih, BitVec.extractLsb'_toNat, BitVec.toNat_ushiftRight, Nat.shiftRight_zero,
      Nat.shiftRight_eq_div_pow, Nat.pow_succ' (m := 256), Nat.mod_mul]

/-- Bytes that cover the whole width stand for the value. -/
theorem fromBytes_littleEndian {w n : Nat} (v : BitVec w) (h : w ≤ 8 * n) : fromBytes (littleEndian n v) = v.toNat := by
  have hlt : v.toNat < 256 ^ n := calc
    v.toNat < 2 ^ w := v.isLt
    _ ≤ 2 ^ (8 * n) := Nat.pow_le_pow_right (by decide) h
    _ = 256 ^ n := Nat.pow_mul 2 8 n
  rw [fromBytes_littleEndian_eq_mod, Nat.mod_eq_of_lt hlt]

theorem littleEndian_two {w : Nat} (v : BitVec w) : littleEndian 2 v = [v.extractLsb' 0 8, v.extractLsb' 8 8] := rfl

/-! ### The header (R100) -/

/-- The byte offsets of R100 cut the header's six fields apart and leave what follows it as the payload. -/
theorem parse_header_append (width : SampleBits) (c : Config) (seq : BitVec 32) (idx : BitVec 64) (f : Frame)
    (p : List Byte) :
    parse width (header c seq idx f ++ p) =
      { packetSeq := seq.toNat
        firstSampleIdx := idx.toNat
        channels := Config.channels
        samplesPerCh := (BitVec.ofNat 16 (f.sampleCount.toNat / Config.channels)).toNat
        flags := f.flags.toNat
        sampleBits := (BitVec.ofNat 16 (SampleBits.toNat c.sampleBits)).toNat
        samples := cutSamples width p } := by
  simp [parse, header, Config.channels, List.drop_append, fromBytes_littleEndian, List.drop_eq_nil_of_le]

/-! ### The payload (R101) -/

/-- The payload of a frame with as many samples as it counts is those samples' bytes, in order: no free value is read. -/
theorem payload_eq_flatMap (c : Config) {f : Frame} (h : f.samples.length = f.sampleCount.toNat) :
    payload c f = f.samples.flatMap (sampleBytes c) := by
  have hread : (List.range f.sampleCount.toNat).map (frameSample f) = f.samples := by
    apply List.ext_getElem (by simp [h])
    intro j _ hj
    simp [frameSample, hj]
  calc payload c f = ((List.range f.sampleCount.toNat).map (frameSample f)).flatMap (sampleBytes c) :=
        (List.flatMap_map ..).symm
    _ = f.samples.flatMap (sampleBytes c) := by rw [hread]

/-- What a receiver reads for one stored word: all of it at 16 bits, its low byte at 8 (R101, R103). -/
def wireValue (width : SampleBits) (w : Sample) : Nat := if width = .bits8 then (w &&& 0xFF).toNat else w.toNat

theorem cutSamples_sampleBytes_append (c : Config) (w : Sample) (rest : List Byte) :
    cutSamples c.sampleBits (sampleBytes c w ++ rest) = wireValue c.sampleBits w :: cutSamples c.sampleBits rest := by
  unfold sampleBytes
  cases c.sampleBits
  case bits8 =>
    have hlow : (w.extractLsb' 0 8).toNat = (w &&& 0xFF).toNat := by
      rw [BitVec.extractLsb'_toNat, BitVec.toNat_and, Nat.shiftRight_zero]
      exact (Nat.and_two_pow_sub_one_eq_mod _ 8).symm
    simp [cutSamples, wireValue, hlow]
  case bits16 =>
    have hword := fromBytes_littleEndian (n := 2) w (by decide)
    rw [littleEndian_two] at hword
    simp [littleEndian_two, cutSamples, wireValue, hword]

theorem cutSamples_flatMap_sampleBytes (c : Config) (ws : List Sample) :
    cutSamples c.sampleBits (ws.flatMap (sampleBytes c)) = ws.map (wireValue c.sampleBits) := by
  induction ws with
  | nil => cases c.sampleBits <;> rfl
  | cons w ws ih => rw [List.flatMap_cons, cutSamples_sampleBytes_append, ih, List.map_cons]

/-! ### A formed datagram -/

theorem samples_length_of_wellFormed {c : Config} {f : Frame} (h : f.wellFormed c = true) :
    f.samples.length = f.sampleCount.toNat := by
  rw [sampleCount_toNat_of_wellFormed h]
  simp only [Frame.wellFormed, Bool.and_eq_true, beq_iff_eq] at h
  obtain ⟨⟨hlength, _⟩, _⟩ := h
  exact hlength

/-- `S` is at most 1024 (D23), so it fits the 16-bit field. -/
theorem samplesPerCh_of_wellFormed {c : Config} {f : Frame} (h : f.wellFormed c = true) :
    (BitVec.ofNat 16 (f.sampleCount.toNat / Config.channels)).toNat = c.S := by
  have hS := c.sRange
  rw [sampleCount_toNat_of_wellFormed h, frameSamples, Config.channels, Nat.mul_div_cancel _ (by decide), BitVec.toNat_ofNat,
    Nat.mod_eq_of_lt (by omega)]

theorem sampleBitsField_toNat (b : SampleBits) :
    (BitVec.ofNat 16 (SampleBits.toNat b)).toNat = if b = .bits8 then 8 else 16 := by
  cases b <;> rfl

/-- Settles O43: the header's fields by `parse_header_append`, the samples by induction over the frame's samples. -/
theorem datagramParses : Obligations.DatagramParses := by
  intro c seq idx f hsound width
  subst width
  rw [parse_header_append, samplesPerCh_of_wellFormed hsound, sampleBitsField_toNat,
    payload_eq_flatMap c (samples_length_of_wellFormed hsound), cutSamples_flatMap_sampleBytes]
  rfl

/-! ### MARK of a half the other ADC has signalled (R136) -/

@[simp] theorem Pending.get_clearHalf_self (p : Pending) (a : Adc) (h : Half) : (p.clearHalf h).get a h = false := by
  cases a <;> cases h <;> rfl

theorem Pending.get_clearHalf_other (p : Pending) (a : Adc) {h h' : Half} (hne : h' ≠ h) :
    (p.clearHalf h).get a h' = p.get a h' := by
  cases h <;> cases h'
  case first.first | second.second => exact absurd rfl hne
  case first.second | second.first => cases a <;> rfl

/-- With one ADC's bit set, the pair is done where the other ADC's is. -/
theorem Pending.pairDone_set_self (p : Pending) {a b : Adc} (hne : b ≠ a) (h : Half) :
    (p.set a h).pairDone h = p.get b h := by
  have hother : (p.set a h).get b h = p.get b h := Pending.get_set_other p (by simp [hne])
  cases a <;> cases b
  case adc0.adc0 | adc1.adc1 => exact absurd rfl hne
  case adc0.adc1 | adc1.adc0 => simp [Pending.pairDone, hother]

theorem resignal_of_clear {a : Adc} {h : Half} {s : State} (hclear : s.pending.get a h = false) : resignal a h s = s := by
  simp [resignal, hclear]

/-- The MARK that completes a pair packs the half with both its bits clear. -/
theorem mark_of_pair {s : State} {a b : Adc} {h : Half} (hne : b ≠ a) (hother : s.pending.get b h = true)
    (hown : s.pending.get a h = false) :
    mark a h s = pack h { s with pending := (s.pending.set a h).clearHalf h } := by
  have hdone : (setPending a h s).pending.pairDone h = true := (Pending.pairDone_set_self s.pending hne h).trans hother
  rw [mark, resignal_of_clear hown, completePair, if_pos hdone]
  rfl

/-- Settles O25: the state packed is `s` with the map of `mark_of_pair`. -/
theorem markCompletesPair : Obligations.MarkCompletesPair := by
  intro s a b h hne hother hown
  refine ⟨{ s with pending := (s.pending.set a h).clearHalf h }, ?packs, ?cleared, ?untouched, rfl⟩
  case packs => exact congrArg Host.Outcome.next (mark_of_pair hne hother hown)
  case cleared => exact fun a' => Pending.get_clearHalf_self _ a' h
  case untouched =>
    intro a' h' hh
    exact (Pending.get_clearHalf_other _ a' hh).trans (Pending.get_set_other _ (by simp [hh]))

end Sys2Proof.Machine
end

section
/-! Encoding (30_encoding.md): the decoder by the `OP` it reads, the round trip of encoder and decoder (R90–R95, R99, R105), and
what a step makes of an illegal word or of a code that labels nothing (R96, R97, R99). -/

namespace Sys2Proof.Machine

/-! ### The decoder, one equation for each `OP` (R91–R97) -/

theorem ifZeroFrom_of_zero {w : TxnWord} {lo : Nat} (h : w.extractLsb' lo (28 - lo) = 0) (i : Instr) :
    ifZeroFrom w lo i = .instr i := if_pos h

theorem ifZeroFrom_of_ne_zero {w : TxnWord} {lo : Nat} (h : w.extractLsb' lo (28 - lo) ≠ 0) (i : Instr) :
    ifZeroFrom w lo i = .illegal .nonzeroReservedBits := if_neg h

section
variable (c : Config) {w : TxnWord}

/-- The words of R92 carry no operand. -/
theorem decodeWord_of_command
    (hop : (opField w).toNat = 1 ∨ (opField w).toNat = 2 ∨ (opField w).toNat = 3 ∨ (opField w).toNat = 4) :
    ∃ i, decodeWord c w = ifZeroFrom w 0 i := by
  rcases hop with h | h | h | h
  · exact ⟨.init, by simp [decodeWord, h]⟩
  · exact ⟨.start, by simp [decodeWord, h]⟩
  · exact ⟨.tick, by simp [decodeWord, h]⟩
  · exact ⟨.rstream, by simp [decodeWord, h]⟩

theorem decodeWord_of_evt (hop : (opField w).toNat = 5) :
    decodeWord c w = ifZeroFrom w 2 (.evt (evtAdc w) (evtHalf w)) := by
  simp [decodeWord, hop]

theorem decodeWord_of_dmawr (hop : (opField w).toNat = 6) :
    decodeWord c w = if 2 * c.S ≤ (dmawrIdx w).toNat then .illegal .indexRange
      else .instr (.dmawr (dmawrAdc w) (dmawrIdx w) (dmawrVal w)) := by
  simp [decodeWord, hop]

theorem decodeWord_of_rdstat (hop : (opField w).toNat = 7) : decodeWord c w = ifZeroFrom w 8 (.rdstat (rdstatReg w)) := by
  simp [decodeWord, hop]

theorem decodeWord_of_reserved (hop : (opField w).toNat = 0 ∨ 8 ≤ (opField w).toNat) :
    decodeWord c w = .illegal .reservedOp := by
  unfold decodeWord
  split
  case h_8 => rfl
  all_goals omega

end

/-- R99 lists the codes 0x81 to 0x88. -/
theorem decodeLabel_of_out_of_range {code : BitVec 8} (h : code.toNat < 0x81 ∨ 0x88 < code.toNat) (x : Args) :
    decodeLabel code x = .noLabel code := by
  unfold decodeLabel
  split
  case h_9 => rfl
  all_goals omega

/-! ### The fields of the words built (R94, R95) -/

theorem opField_dmawrWord (a : Adc) (idx : BitVec 11) (val : Sample) : (opField (dmawrWord a idx val)).toNat = 6 := by
  have hidx := idx.isLt
  have hval := val.isLt
  rw [opField_toNat, dmawrWord_toNat]
  cases a <;> simp only [adcNumber] <;> omega

theorem dmawrAdc_dmawrWord (a : Adc) (idx : BitVec 11) (val : Sample) : dmawrAdc (dmawrWord a idx val) = a := by
  have hidx := idx.isLt
  have hval := val.isLt
  apply adc_eq_of_number
  rw [dmawrAdc, adcNumber_ofBit, bit_toNat, dmawrWord_toNat]
  cases a <;> simp only [adcNumber] <;> omega

theorem dmawrIdx_dmawrWord (a : Adc) (idx : BitVec 11) (val : Sample) : dmawrIdx (dmawrWord a idx val) = idx := by
  have hval := val.isLt
  apply BitVec.eq_of_toNat_eq
  rw [dmawrIdx, extract_toNat, dmawrWord_toNat]
  omega

theorem dmawrVal_dmawrWord (a : Adc) (idx : BitVec 11) (val : Sample) : dmawrVal (dmawrWord a idx val) = val := by
  apply BitVec.eq_of_toNat_eq
  rw [dmawrVal, extract_toNat, dmawrWord_toNat]
  omega

theorem opField_rdstatWord (reg : BitVec 8) : (opField (rdstatWord reg)).toNat = 7 := by
  rw [opField_toNat, rdstatWord_toNat]
  omega

theorem rdstatReg_rdstatWord (reg : BitVec 8) : rdstatReg (rdstatWord reg) = reg := by
  apply BitVec.eq_of_toNat_eq
  rw [rdstatReg, extract_toNat, rdstatWord_toNat]
  omega

theorem rdstatWord_reserved_zero (reg : BitVec 8) : (rdstatWord reg).extractLsb' 8 20 = 0 := by
  rw [extract_eq_zero_iff, rdstatWord_toNat]
  omega

/-! ### Decoding an encoding -/

theorem decodeWord_dmawrWord {c : Config} (a : Adc) {idx : BitVec 11} (val : Sample) (hidx : idx.toNat < 2 * c.S) :
    decodeWord c (dmawrWord a idx val) = .instr (.dmawr a idx val) := by
  rw [decodeWord_of_dmawr c (opField_dmawrWord a idx val), dmawrAdc_dmawrWord, dmawrIdx_dmawrWord, dmawrVal_dmawrWord,
    if_neg (by omega)]

theorem decodeWord_rdstatWord (c : Config) (reg : BitVec 8) : decodeWord c (rdstatWord reg) = .instr (.rdstat reg) := by
  rw [decodeWord_of_rdstat c (opField_rdstatWord reg), ifZeroFrom_of_zero (rdstatWord_reserved_zero reg),
    rdstatReg_rdstatWord]

theorem decodeWord_evtWord (c : Config) (a : Adc) (h : Half) : decodeWord c (evtWord a h) = .instr (.evt a h) := by
  cases a <;> cases h <;> rfl

/-- Settles O1: an EVT word is one of four, DMAWR and RDSTAT read back the fields they were built from, and every other
encoding is one word or one code. -/
theorem decodeEncode : Obligations.DecodeEncode := by
  intro c i hwf
  cases i with
  | evt a h => exact decodeWord_evtWord c a h
  | dmawr a idx val => exact decodeWord_dmawrWord a val (of_decide_eq_true hwf)
  | rdstat reg => exact decodeWord_rdstatWord c reg
  | init | start | tick | rstream => rfl
  | smpl | mark | pack | push | pop | send | lraise | fatal => rfl

/-! ### Encoding what was decoded -/

/-! Fields that do not overlap and together cover a word determine it. -/

theorem evtWord_of_fields {w : TxnWord} (hop : (opField w).toNat = 5) (hzero : w.extractLsb' 2 26 = 0) :
    evtWord (evtAdc w) (evtHalf w) = w := by
  apply BitVec.eq_of_toNat_eq
  rw [opField_toNat] at hop
  rw [extract_eq_zero_iff] at hzero
  rw [evtWord_toNat, evtAdc, evtHalf, adcNumber_ofBit, halfNumber_ofBit, bit_toNat, bit_toNat]
  omega

theorem dmawrWord_of_fields {w : TxnWord} (hop : (opField w).toNat = 6) :
    dmawrWord (dmawrAdc w) (dmawrIdx w) (dmawrVal w) = w := by
  apply BitVec.eq_of_toNat_eq
  rw [opField_toNat] at hop
  rw [dmawrWord_toNat, dmawrAdc, adcNumber_ofBit, bit_toNat, dmawrIdx, extract_toNat, dmawrVal, extract_toNat]
  omega

theorem rdstatWord_of_fields {w : TxnWord} (hop : (opField w).toNat = 7) (hzero : w.extractLsb' 8 20 = 0) :
    rdstatWord (rdstatReg w) = w := by
  apply BitVec.eq_of_toNat_eq
  rw [opField_toNat] at hop
  rw [extract_eq_zero_iff] at hzero
  rw [rdstatWord_toNat, rdstatReg, extract_toNat]
  omega

/-- A word without operands is its `OP` alone. -/
theorem eq_of_op_of_zero {w w' : TxnWord} (hop : (opField w).toNat = (opField w').toNat) (hzero : w.extractLsb' 0 28 = 0)
    (hzero' : w'.extractLsb' 0 28 = 0) : w = w' := by
  apply BitVec.eq_of_toNat_eq
  rw [opField_toNat, opField_toNat] at hop
  rw [extract_eq_zero_iff] at hzero hzero'
  omega

/-- Settles O2: in each case of `decodeWord_cases` the word is rebuilt from its fields. -/
theorem wordHasOneMeaning : Obligations.WordHasOneMeaning := by
  intro c w i hdecode
  have hcommand : ∀ {n} {w' : TxnWord}, (opField w).toNat = n → w.extractLsb' 0 28 = 0 → (opField w').toNat = n →
      w'.extractLsb' 0 28 = 0 → Code.word w' = .word w := fun hop hzero hop' hzero' =>
    congrArg Code.word (eq_of_op_of_zero (hop'.trans hop.symm) hzero' hzero)
  rcases decodeWord_cases hdecode with ⟨hop, rfl, hzero⟩ | ⟨hop, rfl, hzero⟩ | ⟨hop, rfl, hzero⟩ | ⟨hop, rfl, hzero⟩
    | ⟨hop, rfl, hzero⟩ | ⟨hop, rfl, hidx⟩ | ⟨hop, rfl, hzero⟩
  · exact ⟨hcommand hop hzero rfl rfl, rfl⟩
  · exact ⟨hcommand hop hzero rfl rfl, rfl⟩
  · exact ⟨hcommand hop hzero rfl rfl, rfl⟩
  · exact ⟨hcommand hop hzero rfl rfl, rfl⟩
  · exact ⟨congrArg Code.word (evtWord_of_fields hop hzero), rfl⟩
  · exact ⟨congrArg Code.word (dmawrWord_of_fields hop), decide_eq_true hidx⟩
  · exact ⟨congrArg Code.word (rdstatWord_of_fields hop hzero), rfl⟩

/-- Settles O3: each legal word is the encoding of what it stands for, and index 8 is `2·S`. -/
theorem specWordsDecode : Obligations.SpecWordsDecode := by
  intro c hS
  have hrange : decode c (.word 0x60080000) = .illegal .indexRange := by
    refine (decodeWord_of_dmawr c (w := 0x60080000) rfl).trans (if_pos ?_)
    rw [hS]
    decide
  have hindex : (7 : BitVec 11).toNat < 2 * c.S := by
    rw [hS]
    decide
  exact ⟨decodeEncode c .init rfl, decodeEncode c .start rfl, decodeEncode c .tick rfl, decodeEncode c .rstream rfl,
    decodeEncode c (.evt .adc1 .second) rfl, decodeEncode c (.dmawr .adc1 7 0x1234) (decide_eq_true hindex), hrange,
    decodeEncode c (.rdstat 0x09) rfl⟩

/-! ### A step that presents an illegal word, or a code that labels nothing -/

theorem isForegroundWord_eq_false {w : TxnWord} (h : (opField w).toNat = 0 ∨ 4 < (opField w).toNat) :
    isForegroundWord w = false := by
  rw [isForegroundWord, Bool.and_eq_false_iff, decide_eq_false_iff_not, decide_eq_false_iff_not]
  omega

/-- A word is held only if it is a foreground word and a tick is in progress (R275). -/
theorem foreground_and_holding_eq_false {w : TxnWord} {s : State}
    (h : (opField w).toNat = 0 ∨ 4 < (opField w).toNat ∨ holding s = false) :
    (isForegroundWord w && holding s) = false := by
  rw [Bool.and_eq_false_iff]
  rcases h with hop | hop | hfree
  · exact .inl (isForegroundWord_eq_false (.inl hop))
  · exact .inl (isForegroundWord_eq_false (.inr hop))
  · exact .inr hfree

theorem step_of_illegal {s : State} {w : TxnWord} {rest : List Turn} {r : RejectReason}
    (hagenda : s.agenda = .issue (.word w) :: rest) (hdecode : decodeWord s.cfg w = .illegal r)
    (hfree : (opField w).toNat = 0 ∨ 4 < (opField w).toNat ∨ holding s = false) :
    step s = .next (reject w r { s with agenda := rest }) := by
  calc step s = accept (.word w) { s with agenda := rest } := step_of_cons hagenda
    _ = .next (rejectIllegal w r { s with agenda := rest }) := accept_word_of_illegal hdecode
    _ = .next (reject w r { s with agenda := rest }) :=
      congrArg Host.Outcome.next (if_neg (Bool.eq_false_iff.mp (foreground_and_holding_eq_false (s := s) hfree)))

/-- Settles O4: such a word decodes to RESERVED_OP, and is no foreground word. -/
theorem reservedOpRejected : Obligations.ReservedOpRejected := by
  intro s w rest hagenda hop
  have hop : (opField w).toNat = 0 ∨ 8 ≤ (opField w).toNat := hop.imp_left (congrArg BitVec.toNat)
  exact step_of_illegal hagenda (decodeWord_of_reserved s.cfg hop) (by omega)

/-- Settles O5: the word is illegal by the equation for its `OP`. -/
theorem illegalOperandsRejected : Obligations.IllegalOperandsRejected := by
  intro s w rest hagenda op rejected
  have hnumber : ∀ {n}, op = n → (opField w).toNat = n.toNat := congrArg BitVec.toNat
  refine ⟨fun hop hne hfree => ?foreground, fun hop hne => ?evt, fun hop hidx => ?dmawr, fun hop hne => ?rdstat⟩
  case foreground =>
    obtain ⟨i, hi⟩ := decodeWord_of_command s.cfg (hop.imp hnumber (.imp hnumber (.imp hnumber hnumber)))
    exact step_of_illegal hagenda (hi.trans (ifZeroFrom_of_ne_zero hne i)) (.inr (.inr hfree))
  case evt =>
    have hop : (opField w).toNat = 5 := hnumber hop
    exact step_of_illegal hagenda ((decodeWord_of_evt s.cfg hop).trans (ifZeroFrom_of_ne_zero hne _)) (by omega)
  case dmawr =>
    have hop : (opField w).toNat = 6 := hnumber hop
    exact step_of_illegal hagenda ((decodeWord_of_dmawr s.cfg hop).trans (if_pos hidx)) (by omega)
  case rdstat =>
    have hop : (opField w).toNat = 7 := hnumber hop
    exact step_of_illegal hagenda ((decodeWord_of_rdstat s.cfg hop).trans (ifZeroFrom_of_ne_zero hne _)) (by omega)

/-- Settles O7: an empty agenda is `step_of_nil`, and a code outside the range of R99 decodes to no label. -/
theorem stepOtherwise : Obligations.StepOtherwise := by
  refine ⟨fun s hnil => step_of_nil hnil, fun s code x rest hagenda hcode => ?_⟩
  have hdecode : decode s.cfg (.label code x) = .noLabel code := decodeLabel_of_out_of_range hcode x
  rw [step_of_cons hagenda]
  simp [takeTurn, accept, hdecode]

end Sys2Proof.Machine
end

section
/-! Encoding (30_encoding.md): the datagram a SEND forms (R100, R101, R222), and the one response to a transaction word
(R98, R275). -/

namespace Sys2Proof.Machine

/-! ### SEND of a valid frame (R222–R230) -/

theorem frameSendable_of_pcb {s : State} {p : Handle} (hpos : 0 < s.wf.sampleCount.toNat)
    (heven : s.wf.sampleCount.toNat % 2 = 0) (hpcb : s.pcb = some p) : frameSendable s = true := by
  simp [frameSendable, Config.channels, hpos, heven, hpcb]

theorem wireIndex_eq (s : State) :
    wireIndex s = if s.cfg.wireIndexSource = .frame then s.wf.firstSampleIdx else s.streamIndex := by
  unfold wireIndex
  cases s.cfg.wireIndexSource <;> rfl

theorem sequenceNext_eq (c : Config) (ok : Bool) (n : BitVec 32) :
    sequenceNext c ok n = if c.seqAdvance = .onForm ∨ ok = true then n + 1 else n := by
  unfold sequenceNext
  cases c.seqAdvance <;> simp

theorem streamNext_eq (c : Config) (ok : Bool) (n : BitVec 64) :
    streamNext c ok n = if c.seqAdvance = .onForm ∨ ok = true then n + BitVec.ofNat 64 c.S else n := by
  unfold streamNext
  cases c.seqAdvance <;> simp

/-- The datagram, its header's index written out (R226). -/
theorem formDatagram_eq (s : State) :
    formDatagram s =
      header s.cfg s.packetSequence (if s.cfg.wireIndexSource = .frame then s.wf.firstSampleIdx else s.streamIndex) s.wf
        ++ payload s.cfg s.wf := by
  rw [formDatagram, wireIndex_eq]

theorem exec_send_of_sendable {s : State} {p : Handle} (hsending : s.sender = .sending) (hservice : inService s = true)
    (hvalid : frameSendable s = true) (hpcb : s.pcb = some p) :
    exec .send s = .next (sendFrame p { s with sender := .draining }) := by
  have henabled : sendEnabled s = true := by simp [sendEnabled, hsending, hservice]
  calc exec .send s = .next (sendStep s) := congrArg Host.Outcome.next (if_pos henabled)
    _ = .next (sendFrame p { s with sender := .draining }) := by rw [sendStep_of_sendable s hvalid hpcb]

/-- Settles O38: the SEND is `sendFrame_of_alloc` with the sender draining. -/
theorem sendForms : Obligations.SendForms := by
  intro s p hsending hservice hpos heven hpcb halloc n idx bytes advances
  have hbytes : formDatagram { s with sender := .draining } = bytes := formDatagram_eq _
  have hanswer : ∀ k, answerAt { s with sender := .draining } k = answerAt s k := fun _ => rfl
  rw [exec_send_of_sendable hsending ((inService_iff s).mpr hservice) (frameSendable_of_pcb hpos heven hpcb) hpcb,
    sendFrame_of_alloc p { s with sender := .draining } halloc, hbytes, sequenceNext_eq, streamNext_eq]
  rfl

/-! ### One response (R98) -/

/-- An event that is no response. -/
def isNotTxn : Event → Bool
  | .txn _ _ => false
  | .published _ _ _ | .drop _ | .host _ _ | .datagram _ _ | .fatal _ => true

/-- `t`'s history is `s`'s, then events that are no response, then one response to `w`. -/
def Answers (w : TxnWord) (s t : State) : Prop :=
  ∃ new r, t.history = s.history ++ new ++ [.txn w r] ∧ new.all isNotTxn = true

/-- What was done before the response recorded no other. -/
theorem Adds.answers {s u : State} (h : Adds isNotTxn s u) (w : TxnWord) (r : Response) : Answers w s (respond w r u) := by
  obtain ⟨new, hhistory, hnew⟩ := h
  exact ⟨new, r, by rw [respond_history, hhistory], hnew⟩

theorem reject_answers (w : TxnWord) (r : RejectReason) (s : State) : Answers w s (reject w r s) :=
  ⟨[], .reject r, by simp, rfl⟩

theorem startCalls_answers (s : State) : Answers startWord s (startCalls s) := by
  have h0 : Adds isNotTxn s (callBool (.dmaStart .adc0) s) := .recorded rfl (.refl _ s)
  have h1 : Adds isNotTxn s (callBool (.dmaStart .adc1) (callBool (.dmaStart .adc0) s)) := .recorded rfl h0
  have h2 : Adds isNotTxn s (callBool .timerStart (callBool (.dmaStart .adc1) (callBool (.dmaStart .adc0) s))) :=
    .recorded rfl h1
  have fails : ∀ {cause u}, Adds isNotTxn s u → Answers startWord s (startFails cause u) := fun h =>
    Adds.answers (.recorded rfl h) _ _
  unfold startCalls
  dsimp only
  split
  · exact fails h0
  · split
    · exact fails h1
    · split
      · exact fails h2
      · refine Adds.answers (h2.trans ?_) _ _
        unfold running
        split <;> exact .refl _ _

theorem resetStream_answers (s : State) : Answers rstreamWord s (resetStream s) := by
  have hdown : Adds isNotTxn s (tearDown s) := by
    rw [tearDown_eq]
    exact ⟨releaseEvents s.pcb, rfl, by cases s.pcb <;> rfl⟩
  have hnew : Adds isNotTxn s (callUdpNew (tearDown s)) := .recorded rfl hdown
  unfold resetStream
  dsimp only
  split
  · exact Adds.answers (.recorded rfl hnew) _ _
  · rename_i p _
    have hconnect : Adds isNotTxn s (callBool (.udpConnect p (callUdpNew (tearDown s)).cfg.destIp
        (callUdpNew (tearDown s)).cfg.destPort) (callUdpNew (tearDown s))) := .recorded rfl hnew
    unfold connectStream
    dsimp only
    split
    · exact Adds.answers hconnect _ _
    · exact Adds.answers (.recorded rfl (.recorded rfl hconnect)) _ _

theorem mark_addsNoTxn (a : Adc) (h : Half) (s : State) : Adds isNotTxn s (mark a h s) :=
  (mark_adds a h s).mono fun e he => by
    cases e with
    | txn => cases he
    | published | drop | host | datagram | fatal => rfl

/-- A foreground transaction that is not held is admitted on a condition, or rejected; either way it is answered. -/
theorem foreground_answers {w : TxnWord} {r : RejectReason} {c : State → Prop} [DecidablePred c] {f : State → State}
    {s : State} (hfree : holding s = false) (hf : Answers w s (f s)) :
    Answers w s (foreground w (fun u => if c u then f u else reject w r u) s) := by
  rw [foreground, if_neg (Bool.eq_false_iff.mp hfree)]
  split
  · exact hf
  · exact reject_answers w r s

/-- An operation that a word encodes answers that word, where the word is not held. -/
theorem exec_answers {i : Instr} {w : TxnWord} {s : State} (hencode : encode i = .word w)
    (hfree : (isForegroundWord w && holding s) = false) : ∃ t, exec i s = .next t ∧ Answers w s t := by
  have hack : ∀ {w u}, Adds isNotTxn s u → Answers w s (respond w .ack u) := fun h => h.answers _ _
  cases i <;> cases hencode
  case init => exact ⟨_, rfl, foreground_answers hfree (hack (.refl _ s))⟩
  case start => exact ⟨_, rfl, foreground_answers hfree (startCalls_answers s)⟩
  case tick => exact ⟨_, rfl, foreground_answers hfree (hack (.refl _ s))⟩
  case rstream => exact ⟨_, rfl, foreground_answers hfree (resetStream_answers s)⟩
  case evt a h =>
    refine ⟨_, rfl, ?_⟩
    split
    · exact hack (mark_addsNoTxn a h s)
    · exact Adds.answers (.refl _ s) _ _
  case dmawr a idx val =>
    refine ⟨_, rfl, ?_⟩
    split
    · exact hack ⟨[], by simp, rfl⟩
    · exact reject_answers _ _ s
  case rdstat reg =>
    refine ⟨_, rfl, ?_⟩
    split
    · exact Adds.answers (.refl _ s) _ _
    · exact reject_answers _ _ s

theorem ifZeroFrom_ne_noLabel (w : TxnWord) (lo : Nat) (i : Instr) (code : BitVec 8) :
    ifZeroFrom w lo i ≠ .noLabel code := by
  unfold ifZeroFrom
  split <;> simp

theorem decodeWord_ne_noLabel (c : Config) (w : TxnWord) (code : BitVec 8) : decodeWord c w ≠ .noLabel code := by
  unfold decodeWord
  split
  case h_6 => split <;> simp
  case h_8 => simp
  all_goals exact ifZeroFrom_ne_noLabel _ _ _ _

/-- A word that is not held is answered: an operation answers the word it was decoded from (R105), and an illegal word is
rejected. -/
theorem step_answers {s : State} {w : TxnWord} {rest : List Turn} (hagenda : s.agenda = .issue (.word w) :: rest)
    (hfree : (opField w).toNat = 0 ∨ 4 < (opField w).toNat ∨ holding s = false) :
    ∃ t, step s = .next t ∧ Answers w s t := by
  cases hdecode : decode s.cfg (.word w) with
  | instr i =>
    obtain ⟨hencode, _⟩ := wordHasOneMeaning s.cfg w i hdecode
    obtain ⟨t, hexec, hanswers⟩ := exec_answers (s := { s with agenda := rest }) hencode (foreground_and_holding_eq_false hfree)
    exact ⟨t, (stepRunsDecoded s _ i rest hagenda hdecode).trans hexec, hanswers⟩
  | illegal r => exact ⟨_, step_of_illegal hagenda hdecode hfree, reject_answers w r { s with agenda := rest }⟩
  | noLabel code => exact absurd hdecode (decodeWord_ne_noLabel s.cfg w code)

/-- Settles O47, by `step_answers`. -/
theorem oneResponse : Obligations.OneResponse := by
  intro s w rest hagenda hfree
  obtain ⟨t, hstep, new, r, hhistory, hnew⟩ := step_answers hagenda hfree
  exact ⟨t, new, r, hstep, hhistory, fun w' r' hmem => Bool.false_ne_true (List.all_eq_true.mp hnew _ hmem)⟩

end Sys2Proof.Machine
end

section
/-! Capture (41_capture.md): MARK, EVT, DMAWR and SMPL (R130–R140), and the pending-pair map under LOCKSTEP (R133, R140). -/

namespace Sys2Proof.Machine

/-! ### Steps that are not enabled (R132, R133, R221, R222) -/

/-- Settles O40: each of the three conditions makes the step's admission flag false, and then the operation's other branch is
taken. -/
theorem stepsNotEnabled : Obligations.StepsNotEnabled := by
  refine ⟨fun s v0 v1 h => ?smpl, fun s h => ?pop, fun s h => ?send⟩
  case smpl =>
    have hdisabled : smplEnabled s = false := by
      rcases h with h | h | h <;> simp [smplEnabled, h]
    exact if_neg (Bool.eq_false_iff.mp hdisabled)
  case pop =>
    have hdisabled : popEnabled s = false := by
      rcases h with h | h | h <;> simp [popEnabled, inService, h]
    exact congrArg Host.Outcome.next (if_neg (Bool.eq_false_iff.mp hdisabled))
  case send =>
    have hdisabled : sendEnabled s = false := by
      rcases h with h | h | h <;> simp [sendEnabled, inService, h]
    exact congrArg Host.Outcome.next (if_neg (Bool.eq_false_iff.mp hdisabled))

/-! ### DMAWR (R134) -/

/-- Settles O22: below `2·S` the effect is one buffer write, which the buffers' read-after-write laws describe; from `2·S` on it
is a rejection. -/
theorem dmawrWrites : Obligations.DmawrWrites := by
  intro s a idx val
  refine ⟨fun hin => ?written, fun hout => congrArg Host.Outcome.next (if_neg (Nat.not_lt.mpr hout))⟩
  have hread : ∀ a' i, readSample a' i (respond (dmawrWord a idx val) .ack (writeSample a idx.toNat val s))
      = readSample a' i (writeSample a idx.toNat val s) := readSample_congr rfl rfl rfl
  refine ⟨respond (dmawrWord a idx val) .ack (writeSample a idx.toNat val s), congrArg Host.Outcome.next (if_pos hin),
    ?_, fun a' i hne => ?_, fun k => ?_, ?_⟩
  · rw [hread, readSample_writeSample_self]
  · rw [hread, readSample_writeSample_other val s hne]
  · exact (readSlot_congr rfl rfl k).trans (readSlot_writeSample k a _ val s)
  · cases a <;> rfl

/-! ### MARK of a half the other ADC has not signalled (R136) -/

/-- The MARK that completes no pair sets its bit, and raises the latch if the bit was set. -/
theorem mark_of_unpaired {s : State} {a b : Adc} {h : Half} (hne : b ≠ a) (hother : s.pending.get b h = false) :
    mark a h s = setPending a h (resignal a h s) := by
  have hundone : (setPending a h (resignal a h s)).pending.pairDone h = false := by
    rw [setPending_pending, resignal_pending, Pending.pairDone_set_self s.pending hne h, hother]
  exact if_neg (Bool.eq_false_iff.mp hundone)

/-- Settles O24: the state of `mark_of_unpaired`. -/
theorem markSignals : Obligations.MarkSignals := by
  intro s a b h hne hother
  have hmap : (mark a h s).pending = s.pending.set a h := by
    rw [mark_of_unpaired hne hother, setPending_pending, resignal_pending]
  refine ⟨mark a h s, rfl, ?_, fun a' h' hbit => ?_, ?_⟩
  · rw [hmap, Pending.get_set_self]
  · rw [hmap, Pending.get_set_other _ hbit]
  · rw [mark_of_unpaired hne hother, resignal]
    cases s.pending.get a h <;> rfl

/-! ### EVT (R135) -/

theorem inService_eq_false {s : State} (h : s.life = .off ∨ s.life = .fatal) : inService s = false := by
  rcases h with h | h <;> simp [inService, h]

/-- Settles O23: `life` decides which of EVT's two answers is given. -/
theorem evtMarks : Obligations.EvtMarks := by
  intro s a h
  refine ⟨fun hlife => ⟨mark a h s, rfl, ?acted⟩, fun hlife => ?ignored⟩
  case acted => exact congrArg Host.Outcome.next (if_pos ((inService_iff s).mpr hlife))
  case ignored => exact congrArg Host.Outcome.next (if_neg (Bool.eq_false_iff.mp (inService_eq_false hlife)))

/-! ### SMPL (R133) -/

theorem exec_smpl_of_enabled {s : State} (henv : s.cfg.dmaEnv = .lockstep) (harmed : s.dmaArmed = true)
    (hlife : s.life = .running) (hpos : s.dmaPos < 2 * s.cfg.S) (v0 v1 : Sample) :
    exec (.smpl v0 v1) s = .next (samplePeriod v0 v1 s) := by
  have henabled : smplEnabled s = true := by simp [smplEnabled, henv, harmed, hlife]
  calc exec (.smpl v0 v1) s
      = if s.dmaPos < 2 * s.cfg.S then .next (samplePeriod v0 v1 s) else .fault (.noSuchElement s.dmaPos) :=
        if_pos henabled
    _ = .next (samplePeriod v0 v1 s) := if_pos hpos

/-- The events write no buffer: after a sample-clock period the buffers are those of its two writes. -/
theorem readSample_samplePeriod (v0 v1 : Sample) (s : State) (a : Adc) (i : Nat) :
    readSample a i (samplePeriod v0 v1 s) = readSample a i (writePair v0 v1 s) := by
  have hevents := clockEvents_onlyProducerWrites (s.dmaPos + 1) (writePair v0 v1 s)
  exact readSample_congr hevents.buf0 hevents.buf1 hevents.epoch a i

theorem OnlyProducerWrites.withDmaPos {s t : State} (h : OnlyProducerWrites s t) (p : Nat) :
    OnlyProducerWrites { s with dmaPos := p } { t with dmaPos := p } := by
  unfold OnlyProducerWrites at *
  rw [h]

/-- Besides the buffers and the position, a sample-clock period writes only the producer's fields (R40). -/
theorem samplePeriod_onlyProducerWrites (v0 v1 : Sample) (s : State) :
    OnlyProducerWrites
      { s with
        buf0 := (samplePeriod v0 v1 s).buf0
        buf1 := (samplePeriod v0 v1 s).buf1
        dmaPos := (samplePeriod v0 v1 s).dmaPos }
      (samplePeriod v0 v1 s) := by
  have hevents := clockEvents_onlyProducerWrites (s.dmaPos + 1) (writePair v0 v1 s)
  have hbuf0 : (samplePeriod v0 v1 s).buf0 = (writePair v0 v1 s).buf0 := hevents.buf0
  have hbuf1 : (samplePeriod v0 v1 s).buf1 = (writePair v0 v1 s).buf1 := hevents.buf1
  rw [hbuf0, hbuf1]
  exact hevents.withDmaPos (wrapPos s.cfg (s.dmaPos + 1))

/-- Settles O27: the buffers after the period are those of `writePair`, two writes at `dma_pos`. -/
theorem smplWrites : Obligations.SmplWrites := by
  intro s v0 v1 henv harmed hlife hpos
  refine ⟨samplePeriod v0 v1 s, exec_smpl_of_enabled henv harmed hlife hpos v0 v1, ?_, ?_, fun a i hi => ?_, rfl,
    samplePeriod_onlyProducerWrites v0 v1 s⟩
  · rw [readSample_samplePeriod, writePair, readSample_writeSample_other v1 _ (by simp), readSample_writeSample_self]
  · rw [readSample_samplePeriod, writePair, readSample_writeSample_self]
  · rw [readSample_samplePeriod, writePair, readSample_writeSample_other v1 _ (by simp [hi]),
      readSample_writeSample_other v0 s (by simp [hi])]

/-- A sample-clock period, by the position it reaches: since `S ≥ 1`, the half-transfer is not the wrap. -/
theorem samplePeriod_eq (v0 v1 : Sample) (s : State) :
    samplePeriod v0 v1 s =
      if s.dmaPos + 1 = s.cfg.S then { markBoth .first (writePair v0 v1 s) with dmaPos := s.cfg.S }
      else if s.dmaPos + 1 = 2 * s.cfg.S then { markBoth .second (writePair v0 v1 s) with dmaPos := 0 }
      else { writePair v0 v1 s with dmaPos := s.dmaPos + 1 } := by
  have hS := s.cfg.sRange
  have hcfg : (writePair v0 v1 s).cfg = s.cfg := rfl
  unfold samplePeriod wrapPos
  rw [clockEvents_eq, hcfg]
  split
  case isTrue hhalf => rw [if_neg (by omega), hhalf]
  case isFalse => split <;> rfl

/-- Settles O28: the three branches of `samplePeriod_eq`. -/
theorem smplEvents : Obligations.SmplEvents := by
  intro s v0 v1 henv harmed hlife hpos written
  have hS := s.cfg.sRange
  have hexec : exec (.smpl v0 v1) s = .next (samplePeriod v0 v1 s) := exec_smpl_of_enabled henv harmed hlife hpos v0 v1
  rw [hexec, samplePeriod_eq]
  refine ⟨fun hhalf => ?half, fun hwrap => ?wrap, fun hhalf hwrap => ?between⟩
  case half => exact ⟨_, _, rfl, rfl, congrArg Host.Outcome.next (if_pos hhalf)⟩
  case wrap =>
    rw [if_neg (by omega), if_pos hwrap]
    exact ⟨_, _, rfl, rfl, rfl⟩
  case between =>
    rw [if_neg hhalf, if_neg hwrap]
    rfl

/-! ### Steps that signal nothing (R133, R140) -/

/-- An event that is not a RESIGNAL drop. -/
def isNotResignal (e : Event) : Bool := e != .drop .resignal

/-- Where `q` leaves RESIGNAL out, events that meet `q` are none. -/
theorem Adds.noResignal {q : Event → Bool} {s t : State} (hq : q (.drop .resignal) = false) (h : Adds q s t) :
    Adds isNotResignal s t :=
  h.mono fun e he => by
    rw [isNotResignal, bne_iff_ne]
    rintro rfl
    exact Bool.false_ne_true (hq.symm.trans he)

/-- From `s` to `t` no half has become pending, and no RESIGNAL was recorded. -/
def SignalsNothing (s t : State) : Prop :=
  (∀ a h, t.pending.get a h = true → s.pending.get a h = true) ∧ Adds isNotResignal s t

theorem SignalsNothing.of_pending_eq {s t : State} (hmap : t.pending = s.pending) (hadds : Adds isNotResignal s t) :
    SignalsNothing s t :=
  ⟨fun _ _ hset => hmap ▸ hset, hadds⟩

theorem SignalsNothing.refl (s : State) : SignalsNothing s s := .of_pending_eq rfl (.refl _ s)

theorem respond_signalsNothing (w : TxnWord) (r : Response) (s : State) : SignalsNothing s (respond w r s) :=
  .of_pending_eq rfl (.recorded rfl (.refl _ s))

theorem reject_signalsNothing (w : TxnWord) (r : RejectReason) (s : State) : SignalsNothing s (reject w r s) :=
  .of_pending_eq rfl ⟨[.txn w (.reject r)], rfl, rfl⟩

/-! ### The foreground's commands and the consumer signal nothing -/

theorem initialise_signalsNothing (s : State) : SignalsNothing s (respond initWord .ack (initialise s)) := by
  refine ⟨fun a h hset => ?_, ⟨_, rfl, rfl⟩⟩
  cases a <;> cases h <;> cases hset

theorem startCalls_pending (s : State) : (startCalls s).pending = s.pending := by
  unfold startCalls
  dsimp only
  split
  · rfl
  · split
    · rfl
    · split
      · rfl
      · unfold running
        split <;> rfl

theorem resetStream_pending (s : State) : (resetStream s).pending = s.pending := by
  unfold resetStream connectStream
  rw [tearDown_eq]
  dsimp only
  split
  · rfl
  · split <;> rfl

theorem startCalls_signalsNothing (s : State) : SignalsNothing s (startCalls s) :=
  .of_pending_eq (startCalls_pending s) ((startCalls_adds s).noResignal rfl)

theorem resetStream_signalsNothing (s : State) : SignalsNothing s (resetStream s) :=
  .of_pending_eq (resetStream_pending s) ((resetStream_adds s).noResignal rfl)

theorem popStep_signalsNothing (s : State) : SignalsNothing s (popStep s) := by
  unfold popStep
  split <;> exact .of_pending_eq rfl ⟨[], by simp, rfl⟩

theorem sendStep_signalsNothing (s : State) : SignalsNothing s (sendStep s) :=
  .of_pending_eq (sendStep_onlyConsumerWrites s).pending ((sendStep_adds s).noResignal rfl)

/-- A foreground transaction waits, is performed where its condition holds, or is rejected. -/
theorem foreground_signalsNothing (w : TxnWord) (r : RejectReason) {c : State → Prop} [DecidablePred c]
    {f : State → State} {s : State} (hf : SignalsNothing s (f s)) :
    SignalsNothing s (foreground w (fun u => if c u then f u else reject w r u) s) := by
  rcases foreground_cases w (fun u => if c u then f u else reject w r u) s with ⟨_, h⟩ | ⟨_, h⟩ <;> rw [h]
  · exact .of_pending_eq rfl ⟨[], by simp, rfl⟩
  · split
    · exact hf
    · exact reject_signalsNothing w r s

/-! ### SMPL signals nothing where nothing is pending (R133) -/

theorem pack_signalsNothing (h : Half) (s : State) : SignalsNothing s (pack h s) := by
  refine .of_pending_eq (pack_pending h s) ?_
  rw [pack_eq]
  split
  · unfold discardHalf
    split <;> exact .recorded rfl (.refl _ s)
  · exact .recorded rfl (.refl _ s)

/-- The two bits that the events of one half set are cleared again by the pair they complete. -/
theorem Pending.clearHalf_set_set {p : Pending} {h : Half} (h0 : p.get .adc0 h = false) (h1 : p.get .adc1 h = false) :
    ((p.set .adc0 h).set .adc1 h).clearHalf h = p := by
  obtain ⟨first0, first1, second0, second1⟩ := p
  cases h <;> (cases h0; cases h1; rfl)

/-- Both ADCs' events of a half of which nothing is pending come to packing it: ADC0's sets its bit and ADC1's completes the
pair. -/
theorem markBoth_of_clear {s : State} {h : Half} (h0 : s.pending.get .adc0 h = false) (h1 : s.pending.get .adc1 h = false) :
    markBoth h s = pack h s := by
  have hfirst : mark .adc0 h s = setPending .adc0 h s := by
    rw [mark_of_unpaired (b := .adc1) (by decide) h1, resignal_of_clear h0]
  have hown : (setPending .adc0 h s).pending.get .adc1 h = false := by
    rw [setPending_pending, Pending.get_set_other _ (by simp), h1]
  rw [markBoth, hfirst, mark_of_pair (b := .adc0) (by decide) (Pending.get_set_self _ _ _) hown, setPending_pending,
    Pending.clearHalf_set_set h0 h1]
  rfl

theorem clockEvents_signalsNothing (p1 : Nat) {s : State} (hclear : ∀ a h, s.pending.get a h = false) :
    SignalsNothing s (clockEvents p1 s) := by
  have hboth : ∀ h, SignalsNothing s (markBoth h s) := fun h => by
    rw [markBoth_of_clear (hclear _ h) (hclear _ h)]
    exact pack_signalsNothing h s
  rw [clockEvents_eq]
  split
  · exact hboth .first
  · split
    · exact hboth .second
    · exact .refl s

/-! ### Under LOCKSTEP no step signals -/

theorem exec_signalsNothing {i : Instr} {s t : State} (henv : s.cfg.dmaEnv = .lockstep)
    (hlawful : lawfulInstr s.cfg i = true) (hclear : ∀ a h, s.pending.get a h = false) (hexec : exec i s = .next t) :
    SignalsNothing s t := by
  cases i with
  | init => cases hexec; exact foreground_signalsNothing _ _ (initialise_signalsNothing s)
  | start => cases hexec; exact foreground_signalsNothing _ _ (startCalls_signalsNothing s)
  | tick => cases hexec; exact foreground_signalsNothing _ _ (respond_signalsNothing _ _ { s with sender := .draining })
  | rstream => cases hexec; exact foreground_signalsNothing _ _ (resetStream_signalsNothing s)
  | rdstat reg =>
    cases hexec
    split
    · exact respond_signalsNothing _ _ s
    · exact reject_signalsNothing _ _ s
  | smpl v0 v1 =>
    simp only [exec, execSmpl] at hexec
    split at hexec
    · split at hexec
      · cases hexec
        exact clockEvents_signalsNothing (s := writePair v0 v1 s) _ hclear
      · cases hexec
    · cases hexec
      exact .refl s
  | pop =>
    cases hexec
    split
    · exact popStep_signalsNothing s
    · exact .refl s
  | send =>
    cases hexec
    split
    · exact sendStep_signalsNothing s
    · exact .refl s
  | evt | dmawr => simp [lawfulInstr, henv] at hlawful
  | mark | pack | push | lraise | fatal => cases hlawful

/-- Short of a power-on reset, a step from a lawful LOCKSTEP state with nothing pending signals nothing. -/
theorem step_signalsNothing {s t : State} (henv : s.cfg.dmaEnv = .lockstep) (hl : Lawful s)
    (hclear : ∀ a h, s.pending.get a h = false) (hstep : step s = .next t) :
    SignalsNothing s t ∨ s.agenda.head? = some .powerOn ∧ ∀ a h, t.pending.get a h = false := by
  refine step_cases_lawful
    (R := fun s t => SignalsNothing s t ∨ s.agenda.head? = some .powerOn ∧ ∀ a h, t.pending.get a h = false)
    hl hstep ?idle ?used ?rejected ?waits ?operation ?reset
  case idle => exact fun _ => .inl (.refl s)
  case used => exact fun _ _ => .inl (.refl s)
  case rejected => exact fun _ w r _ => .inl (reject_signalsNothing w r s)
  case waits => exact fun _ _ _ _ _ => .inl (.refl s)
  case operation =>
    exact fun ws _ _ hlawful hexec =>
      .inl (exec_signalsNothing (s := { s with agenda := s.agenda.tail, held := ws }) henv hlawful hclear hexec)
  case reset => exact fun hturn => .inr ⟨hturn, powerOn_pending _ _ _ _⟩

/-- Settles O55: a step that signals nothing leaves the clear map clear, and a power-on reset clears it. -/
theorem stepKeepsLockstepClear : Obligations.StepKeepsLockstepClear := by
  intro s t henv hl hclear hstep
  rcases step_signalsNothing henv hl hclear hstep with ⟨hkept, new, hhistory, hnew⟩ | ⟨hturn, hreset⟩
  · refine ⟨fun a h => Bool.eq_false_iff.mpr fun hset => ?_, fun _ => ⟨new, hhistory, fun hmem => ?_⟩⟩
    · exact Bool.false_ne_true ((hclear a h).symm.trans (hkept a h hset))
    · exact Bool.false_ne_true (List.all_eq_true.mp hnew _ hmem)
  · exact ⟨hreset, fun hne => absurd hturn hne⟩

end Sys2Proof.Machine
end

section
/-! Pack (42_pack.md): what one PACK stores, discards and leaves alone (R160, R162, R165), and SEND of a frame PACK can build
(R160, R222). -/

namespace Sys2Proof.Machine

/-! ### PACK by the queue's room (R160) -/

theorem pack_of_full {s : State} (h : Half) (hfull : queueFull s = true) : pack h s = discardHalf s := by
  rw [pack_eq, if_pos hfull]

/-- With room, PACK records the publication of the frame it has put in the slot. -/
theorem pack_of_not_full {s : State} (h : Half) (hfull : queueFull s = false) :
    pack h s = record (.published (slotIndex s.cfg s.qWrite) s.nextSampleIdx s.dropLatch)
      (enqueue (buildFrame h s) (clearLatch (advanceIndex s))) := by
  rw [pack_eq, if_neg (Bool.eq_false_iff.mp hfull)]

/-- The slots after a PACK with room are those after writing the frame to slot `q_write mod Q`. -/
theorem readSlot_pack {s : State} (h : Half) (hfull : queueFull s = false) (k : Nat) :
    readSlot k (pack h s) = readSlot k (writeSlot (slotIndex s.cfg s.qWrite) (buildFrame h s) s) := by
  rw [pack_of_not_full h hfull]
  rfl

theorem readSlot_pack_self {s : State} (h : Half) (hfull : queueFull s = false) :
    readSlot (slotIndex s.cfg s.qWrite) (pack h s) = buildFrame h s := by
  rw [readSlot_pack h hfull, readSlot_writeSlot_self]

theorem readSlot_pack_other {s : State} (h : Half) (hfull : queueFull s = false) {k : Nat}
    (hk : k ≠ slotIndex s.cfg s.qWrite) : readSlot k (pack h s) = readSlot k s := by
  rw [readSlot_pack h hfull, readSlot_writeSlot_other _ s hk]

/-! ### The frame built from a half (R160, R162) -/

theorem halfStart_eq (h : Half) (c : Config) : Half.index h * c.S = if h = .first then 0 else c.S := by
  cases h <;> simp [Half.index]

/-- The interleave law for one channel (R162): its number is the place in the time-step. -/
theorem buildFrame_samples_getElem? (h : Half) (c : Adc) {s : State} {i : Nat} (hi : i < s.cfg.S) :
    (buildFrame h s).samples[2 * i + (if c = .adc0 then 0 else 1)]?
      = some (storedSample s.cfg (readSample c ((if h = .first then 0 else s.cfg.S) + i) s)) := by
  obtain ⟨heven, hodd⟩ := halfSamples_getElem? h s i hi
  rw [halfStart_eq] at heven hodd
  cases c
  · exact heven
  · exact hodd

theorem buildFrame_samples_length (h : Half) (s : State) : (buildFrame h s).samples.length = 2 * s.cfg.S :=
  (halfSamples_length h s).trans (Nat.mul_comm _ _)

/-- Settles O29: the frame is `buildFrame`, which `pack_of_not_full` puts in its slot and publishes. -/
theorem packPublishes : Obligations.PackPublishes := by
  intro s h hfull
  refine ⟨pack h s, buildFrame h s, rfl, buildFrame_samples_length h s, fun i hi => ?samples, ?count, rfl, rfl,
    readSlot_pack_self h hfull, fun k hk => readSlot_pack_other h hfull hk, (pack_onlyProducerWrites h s).sameBuffers, ?rest⟩
  case samples => exact ⟨buildFrame_samples_getElem? h .adc0 hi, buildFrame_samples_getElem? h .adc1 hi⟩
  case count => exact congrArg (BitVec.ofNat 32) (Nat.mul_comm _ _)
  case rest =>
    rw [pack_of_not_full h hfull]
    rfl

/-- Everything a discard writes: the latch, under ADVANCE the index, and the record of the drop. -/
theorem discardHalf_eq (s : State) :
    discardHalf s =
      { s with
        dropLatch := s.dropLatch ||| 1
        nextSampleIdx :=
          if s.cfg.indexOnQueueFull = .advance then s.nextSampleIdx + BitVec.ofNat 64 s.cfg.S else s.nextSampleIdx
        history := s.history ++ [.drop .queueFull] } := by
  unfold discardHalf
  cases s.cfg.indexOnQueueFull <;> rfl

/-- Settles O30: on a full queue PACK is the discard. -/
theorem packDiscards : Obligations.PackDiscards := fun s h hfull =>
  congrArg Host.Outcome.next ((pack_of_full h hfull).trans (discardHalf_eq s))

/-! ### The words stored (R165) -/

/-- At 8 bits the stored word is the sample's low byte. -/
theorem storedSample_of_bits8 {c : Config} (hc : c.sampleBits = .bits8) (w : Sample) : storedSample c w = w &&& 0xFF := by
  apply BitVec.eq_of_toNat_eq
  rw [storedSample_toNat_of_bits8 hc, BitVec.toNat_and]
  exact (Nat.and_two_pow_sub_one_eq_mod _ 8).symm

/-- Settles O31: the word at each place is the stored form of its sample, by width. -/
theorem packTruncates : Obligations.PackTruncates := by
  intro s h hfull
  refine ⟨pack h s, rfl, ?_⟩
  rw [show s.qWrite.toNat % s.cfg.Q = slotIndex s.cfg s.qWrite from rfl, readSlot_pack_self h hfull]
  refine ⟨buildFrame_samples_length h s, fun i c hi => ?_⟩
  intro sample
  refine ⟨storedSample s.cfg sample, buildFrame_samples_getElem? h c hi, fun hbits => ⟨?below, ?byte⟩, fun hbits => ?word⟩
  case below =>
    rw [storedSample_toNat_of_bits8 hbits]
    exact Nat.mod_lt _ (by decide)
  case byte => exact storedSample_of_bits8 hbits sample
  case word => exact storedSample_of_bits16 hbits sample

/-! ### SEND of a frame PACK can build (R222, R223) -/

/-- A sound frame's count is `2·S`: even, and not zero since `S ≥ 1` (R7, R31). -/
theorem frameSendable_of_wellFormed {s : State} {p : Handle} (hsound : s.wf.wellFormed s.cfg = true)
    (hpcb : s.pcb = some p) : frameSendable s = true := by
  have hcount : s.wf.sampleCount.toNat = s.cfg.S * 2 := sampleCount_toNat_of_wellFormed hsound
  have hS := s.cfg.sRange
  exact frameSendable_of_pcb (by omega) (by omega) hpcb

/-- An event that is not an INVALID_FRAME drop. -/
def isNotInvalid (e : Event) : Bool := e != .drop .invalidFrame

/-- Past its validation SEND discards nothing as invalid. -/
theorem sendFrame_addsNoInvalid (p : Handle) (s : State) : Adds isNotInvalid s (sendFrame p s) := by
  cases halloc : answerAt s 0
  case false =>
    rw [sendFrame_of_no_alloc p s halloc]
    exact .recorded rfl (.recorded rfl (.refl _ s))
  case true =>
    rw [sendFrame_of_alloc p s halloc]
    refine ⟨_, List.append_assoc _ _ _, ?_⟩
    cases answerAt s 1 <;> rfl

/-- Settles O41: the frame passes SEND's validation, and after it no drop is INVALID_FRAME. -/
theorem onlyNullPcbIsInvalid : Obligations.OnlyNullPcbIsInvalid := by
  intro s t hsound hpcb hexec
  obtain ⟨p, hp⟩ := Option.ne_none_iff_exists'.mp hpcb
  have hadds : Adds isNotInvalid s t := by
    cases hexec
    split
    · rw [sendStep_of_sendable s (frameSendable_of_wellFormed hsound hp) hp]
      exact sendFrame_addsNoInvalid p { s with sender := .draining }
    · exact .refl _ s
  obtain ⟨new, hhistory, hnew⟩ := hadds
  exact ⟨new, hhistory, fun hmem => Bool.false_ne_true (List.all_eq_true.mp hnew _ hmem)⟩

end Sys2Proof.Machine
end

section
/-! Pack (42_pack.md): the laws of flags and index over the whole history (R163, R164). A state's latch, index and history are its
account; every operation moves the account event by event, and each event keeps both laws. -/

namespace Sys2Proof.Machine

/-! ### The account of a state, and one event more -/

/-- What the flags law and the index law speak of. -/
structure Account where
  cfg : Config
  latch : BitVec 16
  index : BitVec 64
  history : List Event

def accountOf (s : State) : Account where
  cfg := s.cfg
  latch := s.dropLatch
  index := s.nextSampleIdx
  history := s.history

/-- The latch one event later: raised by a drop, cleared by a publication (R25, R160). -/
def latchAfter (x : BitVec 16) : Event → BitVec 16
  | .drop _ => x ||| 1
  | .published _ _ _ => 0
  | .txn _ _ | .host _ _ | .datagram _ _ | .fatal _ => x

/-- The account one event later. -/
def Account.add (a : Account) (e : Event) : Account where
  cfg := a.cfg
  latch := latchAfter a.latch e
  index := indexStep a.cfg a.index e
  history := a.history ++ [e]

/-- A publication is stamped with the index and the latch that the account has (R160). -/
def Account.Stamps (a : Account) : Event → Prop
  | .published _ idx flags => idx = a.index ∧ flags = a.latch
  | .drop _ | .txn _ _ | .host _ _ | .datagram _ _ | .fatal _ => True

/-- The accounts that follow `a` after any number of events, each stamped as the account before it says. -/
inductive Account.Reaches (a : Account) : Account → Prop where
  | refl : Account.Reaches a a
  | event {b : Account} {e : Event} : Account.Reaches a b → b.Stamps e → Account.Reaches a (b.add e)

theorem Account.Reaches.trans {a b c : Account} (h1 : a.Reaches b) (h2 : b.Reaches c) : a.Reaches c := by
  induction h2 with
  | refl => exact h1
  | event _ hstamp ih => exact ih.event hstamp

theorem Account.Reaches.one {a : Account} {e : Event} (hstamp : a.Stamps e) : a.Reaches (a.add e) :=
  Account.Reaches.refl.event hstamp

/-- What each event keeps of an account, any number of events keeps. -/
theorem Account.Reaches.keeps {P : Account → Prop} (hP : ∀ a e, P a → a.Stamps e → P (a.add e)) {a b : Account}
    (h : a.Reaches b) (ha : P a) : P b := by
  induction h with
  | refl => exact ha
  | event _ hstamp ih => exact hP _ _ ih hstamp

/-- From `s` to `t` the account moved event by event. -/
def Accounted (s t : State) : Prop := (accountOf s).Reaches (accountOf t)

theorem Accounted.of_eq {s t : State} (h : accountOf t = accountOf s) : Accounted s t := by
  rw [Accounted, h]
  exact .refl

theorem Accounted.trans {s t u : State} (h1 : Accounted s t) (h2 : Accounted t u) : Accounted s u :=
  Account.Reaches.trans h1 h2

theorem Accounted.one {s t : State} {e : Event} (hstamp : (accountOf s).Stamps e)
    (h : accountOf t = (accountOf s).add e) : Accounted s t := by
  rw [Accounted, h]
  exact .one hstamp

/-- A lost half moves the index too (`discardHalf_accounted`); any other drop raises the latch alone (R163, R231). -/
theorem raiseDrop_accounted {k : DropKind} (hk : k ≠ .queueFull) (s : State) : Accounted s (raiseDrop k s) := by
  refine .one (e := .drop k) trivial ?_
  cases k with
  | queueFull => exact absurd rfl hk
  | resignal | invalidFrame | allocFail | sendFail => rfl

/-! ### Quiet operations: neither a drop nor a publication -/

/-- An event that moves neither the latch nor the index. -/
def isQuiet : Event → Bool
  | .drop _ | .published _ _ _ => false
  | .txn _ _ | .host _ _ | .datagram _ _ | .fatal _ => true

/-- From `s` to `t` only quiet events were recorded, and the latch and the index are what they were. -/
structure Quiet (s t : State) : Prop where
  adds : Adds isQuiet s t
  cfg : t.cfg = s.cfg
  latch : t.dropLatch = s.dropLatch
  index : t.nextSampleIdx = s.nextSampleIdx

theorem Account.add_of_quiet (a : Account) {e : Event} (he : isQuiet e = true) :
    a.Stamps e ∧ a.add e = { a with history := a.history ++ [e] } := by
  cases e with
  | drop | published => cases he
  | txn | host | datagram | fatal => exact ⟨trivial, rfl⟩

theorem Account.append_quiet {new : List Event} (a : Account) (hnew : new.all isQuiet = true) :
    a.Reaches { a with history := a.history ++ new } := by
  induction new generalizing a with
  | nil =>
    rw [List.append_nil]
    exact .refl
  | cons e rest ih =>
    rw [List.all_cons, Bool.and_eq_true] at hnew
    obtain ⟨hstamp, hadd⟩ := a.add_of_quiet hnew.1
    have hrest := ih (a.add e) hnew.2
    rw [hadd, List.append_assoc] at hrest
    exact (hadd ▸ Account.Reaches.one hstamp).trans hrest

theorem Quiet.accounted {s t : State} (h : Quiet s t) : Accounted s t := by
  obtain ⟨⟨new, hhistory, hnew⟩, hcfg, hlatch, hindex⟩ := h
  have ht : accountOf t = { accountOf s with history := s.history ++ new } := by
    simp only [accountOf, hcfg, hlatch, hindex, hhistory]
  rw [Accounted, ht]
  exact Account.append_quiet (accountOf s) hnew

theorem Quiet.refl (s : State) : Quiet s s := ⟨.refl _ s, rfl, rfl, rfl⟩

theorem Quiet.trans {s t u : State} (h1 : Quiet s t) (h2 : Quiet t u) : Quiet s u :=
  ⟨h1.adds.trans h2.adds, h2.cfg.trans h1.cfg, h2.latch.trans h1.latch, h2.index.trans h1.index⟩

theorem respond_quiet (w : TxnWord) (r : Response) (s : State) : Quiet s (respond w r s) :=
  ⟨.recorded rfl (.refl _ s), rfl, rfl, rfl⟩

theorem reject_quiet (w : TxnWord) (r : RejectReason) (s : State) : Quiet s (reject w r s) :=
  ⟨⟨[.txn w (.reject r)], rfl, rfl⟩, rfl, rfl, rfl⟩

theorem hold_quiet (w : TxnWord) (s : State) : Quiet s (hold w s) := ⟨⟨[], by simp, rfl⟩, rfl, rfl, rfl⟩

theorem Adds.quiet {q : Event → Bool} {s t : State} (hdrop : ∀ k, q (.drop k) = false)
    (hpublished : ∀ k idx flags, q (.published k idx flags) = false) (h : Adds q s t) : Adds isQuiet s t :=
  h.mono fun e he => by
    cases e with
    | drop k => exact (hdrop k).symm.trans he
    | published k idx flags => exact (hpublished k idx flags).symm.trans he
    | txn | host | datagram | fatal => rfl

/-- START writes neither the latch nor the index (R272). -/
theorem startCalls_latch_index (s : State) :
    (startCalls s).dropLatch = s.dropLatch ∧ (startCalls s).nextSampleIdx = s.nextSampleIdx := by
  unfold startCalls startFails running
  dsimp only
  repeat' split
  all_goals simp

/-- RSTREAM writes neither the latch nor the index (R232). -/
theorem resetStream_latch_index (s : State) :
    (resetStream s).dropLatch = s.dropLatch ∧ (resetStream s).nextSampleIdx = s.nextSampleIdx := by
  unfold resetStream connectStream
  rw [tearDown_eq]
  dsimp only
  repeat' split
  all_goals simp

theorem startCalls_quiet (s : State) : Quiet s (startCalls s) where
  adds := (startCalls_adds s).quiet (fun _ => rfl) (fun _ _ _ => rfl)
  cfg := (startCalls_onlyForegroundWrites s).cfg
  latch := (startCalls_latch_index s).1
  index := (startCalls_latch_index s).2

theorem resetStream_quiet (s : State) : Quiet s (resetStream s) where
  adds := (resetStream_adds s).quiet (fun _ => rfl) (fun _ _ _ => rfl)
  cfg := (resetStream_onlyForegroundWrites s).cfg
  latch := (resetStream_latch_index s).1
  index := (resetStream_latch_index s).2

/-- A foreground transaction waits, is performed where its condition holds, or is rejected. -/
theorem foreground_quiet (w : TxnWord) (r : RejectReason) {c : State → Prop} [DecidablePred c] {f : State → State}
    {s : State} (hf : Quiet s (f s)) : Quiet s (foreground w (fun u => if c u then f u else reject w r u) s) := by
  rcases foreground_cases w (fun u => if c u then f u else reject w r u) s with ⟨_, h⟩ | ⟨_, h⟩ <;> rw [h]
  · exact hold_quiet w s
  · split
    · exact hf
    · exact reject_quiet w r s

/-! ### The producer and the consumer -/

theorem discardHalf_accounted (s : State) : Accounted s (discardHalf s) := by
  refine .one (e := .drop .queueFull) trivial ?_
  cases hrule : s.cfg.indexOnQueueFull <;> simp [discardHalf, accountOf, Account.add, indexStep, latchAfter, hrule]

theorem pack_accounted (h : Half) (s : State) : Accounted s (pack h s) := by
  rw [pack_eq]
  split
  · exact discardHalf_accounted s
  · exact .one (e := .published (slotIndex s.cfg s.qWrite) s.nextSampleIdx s.dropLatch) ⟨rfl, rfl⟩ rfl

theorem completePair_accounted (h : Half) (s : State) : Accounted s (completePair h s) := by
  unfold completePair
  split
  · exact Accounted.trans (t := { s with pending := s.pending.clearHalf h }) (.of_eq rfl) (pack_accounted h _)
  · exact .of_eq rfl

theorem mark_accounted (a : Adc) (h : Half) (s : State) : Accounted s (mark a h s) := by
  have hsignal : Accounted s (resignal a h s) := by
    unfold resignal
    split
    · exact raiseDrop_accounted (by decide) s
    · exact .of_eq rfl
  have hset : Accounted (resignal a h s) (setPending a h (resignal a h s)) := .of_eq rfl
  exact hsignal.trans (hset.trans (completePair_accounted h _))

theorem clockEvents_accounted (p1 : Nat) (s : State) : Accounted s (clockEvents p1 s) := by
  have hboth : ∀ h, Accounted s (markBoth h s) := fun h => (mark_accounted .adc0 h s).trans (mark_accounted .adc1 h _)
  rw [clockEvents_eq]
  split
  · exact hboth .first
  · split
    · exact hboth .second
    · exact .of_eq rfl

theorem samplePeriod_accounted (v0 v1 : Sample) (s : State) : Accounted s (samplePeriod v0 v1 s) :=
  Accounted.trans (t := writePair v0 v1 s) (.of_eq rfl) (clockEvents_accounted (s.dmaPos + 1) _)

theorem popStep_quiet (s : State) : Quiet s (popStep s) := by
  unfold popStep
  split <;> exact ⟨⟨[], by simp, rfl⟩, rfl, rfl, rfl⟩

/-- SEND's calls are quiet; the failure it ends in, if any, is one drop (R222, R224, R230). -/
theorem sendFrame_accounted (p : Handle) (s : State) : Accounted s (sendFrame p s) := by
  cases halloc : answerAt s 0
  case false =>
    have hcall : Quiet s (callBool (.alloc (datagramLength s)) s) := ⟨.recorded rfl (.refl _ s), rfl, rfl, rfl⟩
    rw [sendFrame_of_no_alloc p s halloc]
    exact hcall.accounted.trans (raiseDrop_accounted (by decide) _)
  case true =>
    rw [sendFrame_of_alloc p s halloc]
    have hcalls := (accountOf s).append_quiet
      (new := [.host (.alloc (datagramLength s)) (.bool true), .host (.send p (formDatagram s)) (.bool (answerAt s 1)),
        .host (.free (datagramLength s)) .none, .datagram (formDatagram s) (answerAt s 1)]) rfl
    cases haccepted : answerAt s 1
    · rw [haccepted] at hcalls
      exact hcalls.event (e := .drop .sendFail) trivial
    · rw [haccepted] at hcalls
      simpa [Accounted, accountOf] using hcalls

theorem sendStep_accounted (s : State) : Accounted s (sendStep s) := by
  cases hvalid : frameSendable s
  case false =>
    rw [sendStep_of_invalid s hvalid]
    exact raiseDrop_accounted (by decide) { s with sender := .draining }
  case true =>
    obtain ⟨p, hp⟩ := frameSendable_pcb hvalid
    rw [sendStep_of_sendable s hvalid hp]
    exact sendFrame_accounted p { s with sender := .draining }

/-! ### Every operation -/

/-- From `s` to `t` the account moved event by event; in OFF, which is not entered, neither latch nor index moved. -/
structure Follows (s t : State) : Prop where
  accounted : Accounted s t
  off : t.life = .off → s.life = .off ∧ t.dropLatch = s.dropLatch ∧ t.nextSampleIdx = s.nextSampleIdx

theorem Quiet.follows {s t : State} (h : Quiet s t) (hlife : t.life = .off → s.life = .off) : Follows s t :=
  ⟨h.accounted, fun hoff => ⟨hlife hoff, h.latch, h.index⟩⟩

theorem not_off_of_inService {s : State} (h : inService s = true) : s.life ≠ .off := by
  rcases (inService_iff s).mp h with h | h <;> simp [h]

theorem not_off_of_sendEnabled {s : State} (h : sendEnabled s = true) : s.life ≠ .off := by
  rw [sendEnabled, Bool.and_eq_true] at h
  exact not_off_of_inService h.2

theorem not_off_of_smplEnabled {s : State} (h : smplEnabled s = true) : s.life ≠ .off := by
  rw [smplEnabled, Bool.and_eq_true, beq_iff_eq] at h
  simp [h.2]

theorem LifeMoves.off {s t : State} (h : LifeMoves s t) (hoff : t.life = .off) : s.life = .off := by
  rcases h with h | ⟨h, _⟩ | ⟨_, h⟩ | ⟨_, h, _⟩
  · exact h.symm.trans hoff
  · exact h
  · cases h.symm.trans hoff
  · cases h.symm.trans hoff

/-- INIT in OFF is the one operation that moves the account otherwise: it clears the latch and the index (R271). -/
def Initialises (s t : State) : Prop := s.life = .off ∧ t = respond initWord .ack (initialise s)

theorem execInit_quiet_or_initialises {s t : State} (hexec : exec .init s = .next t) : Quiet s t ∨ Initialises s t := by
  cases hexec
  rcases foreground_cases initWord
    (fun u => if u.life = .off then respond initWord .ack (initialise u) else reject initWord .state u) s
    with ⟨_, h⟩ | ⟨_, h⟩ <;> rw [h]
  · exact .inl (hold_quiet _ s)
  · split
    · exact .inr ⟨by assumption, rfl⟩
    · exact .inl (reject_quiet _ _ s)

theorem writeSample_quiet (a : Adc) (i : Nat) (v : Sample) (s : State) : Quiet s (writeSample a i v s) :=
  ⟨⟨[], by simp, rfl⟩, by simp, by simp, by simp⟩

/-- An operation is quiet, moves the account event by event outside OFF, or initialises the block. -/
theorem exec_accounted {i : Instr} {s t : State} (hlawful : lawfulInstr s.cfg i = true) (hexec : exec i s = .next t) :
    Quiet s t ∨ (s.life ≠ .off ∧ Accounted s t) ∨ Initialises s t := by
  cases i with
  | init => exact (execInit_quiet_or_initialises hexec).imp_right .inr
  | start => cases hexec; exact .inl (foreground_quiet _ _ (startCalls_quiet s))
  | tick => cases hexec; exact .inl (foreground_quiet _ _ ⟨⟨[.txn tickWord .ack], rfl, rfl⟩, rfl, rfl, rfl⟩)
  | rstream => cases hexec; exact .inl (foreground_quiet _ _ (resetStream_quiet s))
  | rdstat reg =>
    cases hexec
    split
    · exact .inl (respond_quiet _ _ s)
    · exact .inl (reject_quiet _ _ s)
  | evt a h =>
    cases hexec
    split
    · exact .inr (.inl ⟨not_off_of_inService (by assumption),
        (mark_accounted a h s).trans (respond_quiet _ _ _).accounted⟩)
    · exact .inl (respond_quiet _ _ s)
  | dmawr a idx val =>
    cases hexec
    split
    · exact .inl ((writeSample_quiet a _ val s).trans (respond_quiet _ _ _))
    · exact .inl (reject_quiet _ _ s)
  | smpl v0 v1 =>
    simp only [exec, execSmpl] at hexec
    split at hexec
    · rename_i henabled
      split at hexec
      · cases hexec
        exact .inr (.inl ⟨not_off_of_smplEnabled henabled, samplePeriod_accounted v0 v1 s⟩)
      · cases hexec
    · cases hexec
      exact .inl (.refl s)
  | pop =>
    cases hexec
    split
    · exact .inl (popStep_quiet s)
    · exact .inl (.refl s)
  | send =>
    cases hexec
    split
    · rename_i henabled
      exact .inr (.inl ⟨not_off_of_sendEnabled henabled, sendStep_accounted s⟩)
    · exact .inl (.refl s)
  | mark | pack | push | lraise | fatal => cases hlawful

theorem exec_follows {i : Instr} {s t : State} (hlawful : lawfulInstr s.cfg i = true) (hexec : exec i s = .next t) :
    Follows s t ∨ Initialises s t := by
  have hlife := (exec_lifeMoves hlawful hexec).off
  rcases exec_accounted hlawful hexec with hquiet | ⟨hnot, hacc⟩ | hinit
  · exact .inl (hquiet.follows hlife)
  · exact .inl ⟨hacc, fun hoff => absurd (hlife hoff) hnot⟩
  · exact .inr hinit

/-- A law that an account moved event by event, an INIT and a power-on reset keep is kept by every lawful step. -/
theorem step_keeps_accounted {P : State → Prop} (follows : ∀ s t, P s → Follows s t → P t)
    (initialises : ∀ s, P s → s.life = .off → P (initialise s))
    (reset : ∀ c epoch agenda oracle, P (State.powerOn c epoch agenda oracle))
    {s t : State} (hl : Lawful s) (hs : P s) (hstep : step s = .next t) : P t := by
  refine step_keeps_lawful (P := P) ?bookkeeping ?rejected (fun _ _ => reset _ _ _ _) ?operation hl hs hstep
  case bookkeeping =>
    exact fun u ag ws hu => follows u { u with agenda := ag, held := ws } hu ⟨.of_eq rfl, fun hoff => ⟨hoff, rfl, rfl⟩⟩
  case rejected => exact fun w r u hu => follows u _ hu ((reject_quiet w r u).follows fun hoff => hoff)
  case operation =>
    intro i u v hlawful hu hexec
    rcases exec_follows hlawful hexec with hfollows | ⟨hoff, rfl⟩
    · exact follows u v hu hfollows
    · exact follows (initialise u) _ (initialises u hu hoff) ((respond_quiet initWord .ack _).follows fun hoff => hoff)

/-! ### Each event keeps the two laws (R163, R164) -/

/-- Every publication of the history stands in the relation `R` to the history before it. -/
def EachPublished (R : List Event → BitVec 64 → BitVec 16 → Prop) (h : List Event) : Prop :=
  ∀ before after k idx flags, h = before ++ Event.published k idx flags :: after → R before idx flags

theorem EachPublished.snoc {R : List Event → BitVec 64 → BitVec 16 → Prop} {h : List Event} {e : Event}
    (hh : EachPublished R h) (he : ∀ k idx flags, e = .published k idx flags → R h idx flags) :
    EachPublished R (h ++ [e]) := by
  intro before after k idx flags hsplit
  rcases snoc_split hsplit with ⟨_, rfl, hlast⟩ | ⟨after', _, hbefore⟩
  · exact he k idx flags hlast.symm
  · exact hh before after' k idx flags hbefore

theorem EachPublished.nil (R : List Event → BitVec 64 → BitVec 16 → Prop) : EachPublished R [] :=
  fun before _ _ _ _ h => by simp at h

/-- The latch a history leads to (R164). -/
def latchOf (h : List Event) : BitVec 16 := if raisedSince h then 1 else 0

theorem latchOf_snoc (h : List Event) (e : Event) : latchOf (h ++ [e]) = latchAfter (latchOf h) e := by
  unfold latchOf
  rw [raisedSince_snoc]
  cases e with
  | drop k => cases raisedSince h <;> rfl
  | published k idx flags => rfl
  | txn | host | datagram | fatal => rfl

theorem latchOf_eq_zero_iff (h : List Event) : latchOf h = 0 ↔ raisedSince h = false := by
  unfold latchOf
  cases raisedSince h <;> simp

/-- The flags law of an account, whatever the state's `life` (R164). -/
def Account.KeepsFlags (a : Account) : Prop :=
  a.latch = latchOf a.history ∧ EachPublished (fun before _ flags => flags = latchOf before) a.history

theorem Account.KeepsFlags.add {a : Account} {e : Event} (ha : a.KeepsFlags) (hstamp : a.Stamps e) :
    (a.add e).KeepsFlags := by
  obtain ⟨hnow, hpublished⟩ := ha
  refine ⟨?_, hpublished.snoc ?_⟩
  · show latchAfter a.latch e = latchOf (a.history ++ [e])
    rw [latchOf_snoc, hnow]
  · rintro k idx flags rfl
    exact hstamp.2.trans hnow

/-- The index law of an account, whatever the state's `life` (R163). -/
def Account.KeepsIndex (a : Account) : Prop :=
  a.index = indexAfter a.cfg a.history ∧ EachPublished (fun before idx _ => idx = indexAfter a.cfg before) a.history

theorem Account.KeepsIndex.add {a : Account} {e : Event} (ha : a.KeepsIndex) (hstamp : a.Stamps e) :
    (a.add e).KeepsIndex := by
  obtain ⟨hnow, hpublished⟩ := ha
  refine ⟨?_, hpublished.snoc ?_⟩
  · show indexStep a.cfg a.index e = indexAfter a.cfg (a.history ++ [e])
    rw [indexAfter_snoc, hnow]
  · rintro k idx flags rfl
    exact hstamp.1.trans hnow

/-! ### Every step keeps the two laws -/

theorem FlagsLaw.follows {s t : State} (hs : FlagsLaw s) (h : Follows s t) : FlagsLaw t := by
  obtain ⟨hnow, hpublished⟩ : (accountOf t).KeepsFlags :=
    Account.Reaches.keeps (fun _ _ ha hstamp => ha.add hstamp) h.accounted ⟨hs.now, hs.published⟩
  refine ⟨hnow, hpublished, fun hoff => ?_⟩
  obtain ⟨hlife, hlatch, _⟩ := h.off hoff
  rw [← latchOf_eq_zero_iff]
  calc latchOf t.history = t.dropLatch := hnow.symm
    _ = s.dropLatch := hlatch
    _ = latchOf s.history := hs.now
    _ = 0 := (latchOf_eq_zero_iff _).mpr (hs.beforeInit hlife)

theorem FlagsLaw.initialise {s : State} (hs : FlagsLaw s) (hoff : s.life = .off) : FlagsLaw (initialise s) where
  now := ((latchOf_eq_zero_iff _).mpr (hs.beforeInit hoff)).symm
  published := hs.published
  beforeInit := fun h => by cases h

theorem IndexLaw.follows {s t : State} (hs : IndexLaw s) (h : Follows s t) : IndexLaw t := by
  obtain ⟨hnow, hpublished⟩ : (accountOf t).KeepsIndex :=
    Account.Reaches.keeps (fun _ _ ha hstamp => ha.add hstamp) h.accounted ⟨hs.now, hs.published⟩
  refine ⟨hnow, hpublished, fun hoff => ?_⟩
  obtain ⟨hlife, _, hindex⟩ := h.off hoff
  calc indexAfter t.cfg t.history = t.nextSampleIdx := hnow.symm
    _ = s.nextSampleIdx := hindex
    _ = indexAfter s.cfg s.history := hs.now
    _ = 0 := hs.beforeInit hlife

theorem IndexLaw.initialise {s : State} (hs : IndexLaw s) (hoff : s.life = .off) : IndexLaw (initialise s) where
  now := (hs.beforeInit hoff).symm
  published := hs.published
  beforeInit := fun h => by cases h

/-- Settles O58: each event keeps the law, INIT clears a latch that is clear, and a power-on reset empties the history. -/
theorem stepKeepsFlagsLaw : Obligations.StepKeepsFlagsLaw := by
  intro s t hl hs hstep
  refine step_keeps_accounted (P := FlagsLaw) ?follows ?initialises ?reset hl hs hstep
  case follows => exact fun _ _ hu h => hu.follows h
  case initialises => exact fun _ hu hoff => hu.initialise hoff
  case reset => exact fun _ _ _ _ => { now := rfl, published := EachPublished.nil _, beforeInit := fun _ => rfl }

/-- Settles O59: each event keeps the law, INIT zeroes an index that is zero, and a power-on reset empties the history. -/
theorem stepKeepsIndexLaw : Obligations.StepKeepsIndexLaw := by
  intro s t hl hs hstep
  refine step_keeps_accounted (P := IndexLaw) ?follows ?initialises ?reset hl hs hstep
  case follows => exact fun _ _ hu h => hu.follows h
  case initialises => exact fun _ hu hoff => hu.initialise hoff
  case reset => exact fun _ _ _ _ => { now := rfl, published := EachPublished.nil _, beforeInit := fun _ => rfl }

end Sys2Proof.Machine
end

section
/-! The frame queue (43_queue.md): the queue tests as occupancy (R193–R195), the ring as a FIFO (R198, R199), the
free-running-counter form (R201), and the POP step (R197, R221). -/

namespace Sys2Proof.Machine

/-! ### The queue tests (R193, R194, R195) -/

/-- Settles O33: the full test by `full_eq`, under either rule, and the empty test by `empty_eq`. -/
theorem fullIsCapacity : Obligations.FullIsCapacity := by
  intro c r w hr hw
  exact ⟨full_eq c r w hr hw, empty_eq c r w hr hw⟩

/-! ### POP (R197, R221) -/

theorem queueEmpty_iff (s : State) : queueEmpty s = true ↔ s.qRead = s.qWrite := beq_iff_eq

theorem queueEmpty_eq_false_iff (s : State) : queueEmpty s = false ↔ s.qRead ≠ s.qWrite := beq_eq_false_iff_ne

theorem popStep_of_empty {s : State} (h : s.qRead = s.qWrite) : popStep s = { s with sender := .idle } :=
  if_pos ((queueEmpty_iff s).mpr h)

theorem popStep_of_not_empty {s : State} (h : s.qRead ≠ s.qWrite) :
    popStep s = { dequeue s with wf := oldestFrame s, sender := .sending } :=
  if_neg (Bool.eq_false_iff.mp ((queueEmpty_eq_false_iff s).mpr h))

theorem exec_pop_of_enabled {s : State} (h : popEnabled s = true) : exec .pop s = .next (popStep s) :=
  congrArg Host.Outcome.next (if_pos h)

/-- Settles O37: the POP step is enabled, and takes the branch of `popStep` for an empty or a non-empty queue. -/
theorem popTakes : Obligations.PopTakes := by
  intro s hsender hlife
  have henabled : popEnabled s = true := by simp [popEnabled, hsender, (inService_iff s).mpr hlife]
  rw [exec_pop_of_enabled henabled]
  refine ⟨fun hempty => ?_, fun hne => ?_⟩
  · rw [popStep_of_empty hempty]
  · rw [popStep_of_not_empty hne]
    rfl

/-! ### First in, first out (R198, R199) -/

/-- Settles O34: a PUSH with room is an `enqueue`, a POP of a queue that holds a frame is a `dequeue`, and what each does to the
queue's contents is `queueContents_enqueue` and `queueContents_dequeue`. -/
theorem ringIsFifo : Obligations.RingIsFifo := by
  intro s hr hw hocc
  refine ⟨fun f hroom => ⟨publish f s, rfl, ?push⟩, fun henabled hne => ⟨_, exec_pop_of_enabled henabled, ?pop⟩⟩
  case push =>
    calc queueContents (publish f s) = queueContents (enqueue f s) := by
          rw [publish_of_not_full f s hroom]
          exact queueContents_congr rfl rfl rfl rfl rfl
      _ = queueContents s ++ [f] := queueContents_enqueue f hr hw (count_lt_capacity hr hw hocc hroom)
  case pop =>
    rw [popStep_of_not_empty hne]
    exact queueContents_dequeue hr hw (count_ne_zero hr hw ((queueEmpty_eq_false_iff s).mpr hne))

/-! ### Free-running counters (R201) -/

/-- A 32-bit sum, read modulo a divisor of 2^32, is the sum of the residues: the carry out is lost to both. -/
theorem toNat_add_mod_of_dvd {m : Nat} (hm : m ∣ 2 ^ 32) (x y : BitVec 32) :
    (x + y).toNat % m = (x.toNat % m + y.toNat) % m := by
  rw [BitVec.toNat_add, Nat.mod_mod_of_dvd _ hm, Nat.mod_add_mod]

theorem adv_toNat_eq_mod (c : Config) (x : BitVec 32) : (adv c x).toNat = (x.toNat + 1) % modulus c := by
  have hle := modulus_le c
  have hlt := Nat.mod_lt (x.toNat + 1) (modulus_pos c)
  rw [adv, BitVec.toNat_ofNat, Nat.mod_eq_of_lt (by omega)]

/-- An index that follows a counter still follows it after both advance. -/
theorem adv_follows {c : Config} (hm : modulus c ∣ 2 ^ 32) {x n : BitVec 32} (hx : x.toNat = n.toNat % modulus c) :
    (adv c x).toNat = (n + 1).toNat % modulus c := by
  rw [adv_toNat_eq_mod, hx, toNat_add_mod_of_dvd hm]
  rfl

theorem slotIndex_follows {c : Config} {x n : BitVec 32} (hx : x.toNat = n.toNat % modulus c) :
    slotIndex c x = n.toNat % c.Q := by
  rw [slotIndex, hx, slotOf_mod]

/-- The occupancy is the only number below `M` that leads from the read index to the write index (R195). -/
theorem count_unique {c : Config} {r w : BitVec 32} (hr : r.toNat < modulus c) (hw : w.toNat < modulus c) {n : Nat}
    (hn : n < modulus c) (h : (r.toNat + n) % modulus c = w.toNat) : count c r w = n := by
  have hmod : (r.toNat + count c r w) % modulus c = (r.toNat + n) % modulus c := (read_add_count c hr hw).trans h.symm
  have hcount := count_lt c r w
  rcases Nat.lt_trichotomy (count c r w) n with hless | hequal | hmore
  · exact absurd hmod (slot_ne (by omega) (by omega))
  · exact hequal
  · exact absurd hmod.symm (slot_ne (by omega) (by omega))

/-- Indexes that follow free-running counters have the counters' difference as their occupancy (R195, R201). -/
theorem count_follows {c : Config} (hm : modulus c ∣ 2 ^ 32) {fr fw r w : BitVec 32}
    (hr : r.toNat = fr.toNat % modulus c) (hw : w.toNat = fw.toNat % modulus c) (hdiff : (fw - fr).toNat < modulus c) :
    count c r w = (fw - fr).toNat := by
  have hpos := modulus_pos c
  refine count_unique (hr ▸ Nat.mod_lt _ hpos) (hw ▸ Nat.mod_lt _ hpos) hdiff ?_
  calc (r.toNat + (fw - fr).toNat) % modulus c = (fr + (fw - fr)).toNat % modulus c := by
        rw [hr, toNat_add_mod_of_dvd hm]
    _ = w.toNat := by rw [BitVec.add_comm, BitVec.sub_add_cancel, hw]

/-- `2·Q` is at most 2^17 (D23), so where `Q` is a power of two a 32-bit counter wraps at a multiple of it. -/
theorem twice_Q_dvd {c : Config} {k : Nat} (hQ : c.Q = 2 ^ k) : 2 * c.Q ∣ 2 ^ 32 := by
  have hle : 2 ^ k ≤ 2 ^ 16 := hQ ▸ c.qRange.2
  have hk : k ≤ 16 := (Nat.pow_le_pow_iff_right (by decide)).mp hle
  rw [hQ, ← Nat.pow_succ']
  exact Nat.pow_dvd_pow 2 (by omega)

/-- Settles O35: `M` divides 2^32, so the occupancy is the counters' difference, on which the verdicts turn, and the indexes
follow the counters into the slots and through an advance. -/
theorem freeRunningCounters : Obligations.FreeRunningCounters := by
  intro c k fr fw r w hrule hQ hdiff hr hw
  have hmodulus : modulus c = 2 * c.Q := by rw [modulus, hrule]
  have hcapacity : capacity c = c.Q := by rw [capacity, hrule]
  have hdvd : modulus c ∣ 2 ^ 32 := hmodulus ▸ twice_Q_dvd hQ
  have hpos := modulus_pos c
  rw [← hmodulus] at hr hw ⊢
  have hrlt : r.toNat < modulus c := hr ▸ Nat.mod_lt _ hpos
  have hwlt : w.toNat < modulus c := hw ▸ Nat.mod_lt _ hpos
  have hcount : count c r w = (fw - fr).toNat := count_follows hdvd hr hw (by omega)
  refine ⟨?full, ?empty, hcount, slotIndex_follows hr, slotIndex_follows hw, adv_follows hdvd hr, adv_follows hdvd hw⟩
  case full => rw [full_eq c r w hrlt hwlt, hcount, hcapacity]
  case empty =>
    calc empty r w = true ↔ (fw - fr).toNat = 0 := by rw [empty_eq c r w hrlt hwlt, hcount]
      _ ↔ fw - fr = 0#32 := (BitVec.toNat_eq (y := 0#32)).symm
      _ ↔ fr = fw := by rw [BitVec.sub_eq_iff_eq_add, BitVec.zero_add, eq_comm]

end Sys2Proof.Machine
end

section
/-! Sender (44_sender.md): TICK (R220), SEND's discards (R223, R224), LRAISE (R231) and RSTREAM (R232). -/

namespace Sys2Proof.Machine

/-! ### Foreground transactions, held or performed (R275) -/

theorem foreground_of_holding {s : State} (w : TxnWord) (f : State → State) (h : holding s = true) :
    foreground w f s = hold w s :=
  if_pos h

theorem foreground_of_not_holding {s : State} (w : TxnWord) (f : State → State) (h : holding s = false) :
    foreground w f s = f s :=
  if_neg (Bool.eq_false_iff.mp h)

theorem holding_of_not_idle {s : State} (hservice : inService s = true) (hbusy : s.sender ≠ .idle) :
    holding s = true := by
  simp [holding, hservice, hbusy]

/-! ### TICK (R220) -/

/-- Settles O36: `holding` decides whether the word waits, and `inService` whether it begins a tick. -/
theorem tickStarts : Obligations.TickStarts := by
  intro s
  refine ⟨fun hlife hidle => congrArg Host.Outcome.next ?begins, fun hlife hbusy => congrArg Host.Outcome.next ?waits,
    fun hlife => congrArg Host.Outcome.next ?rejected⟩
  case begins =>
    exact (foreground_of_not_holding tickWord _ (holding_of_idle hidle)).trans (if_pos ((inService_iff s).mpr hlife))
  case waits => exact foreground_of_holding tickWord _ (holding_of_not_idle ((inService_iff s).mpr hlife) hbusy)
  case rejected =>
    have hout : inService s = false := inService_eq_false hlife
    exact (foreground_of_not_holding tickWord _ (holding_of_not_inService hout)).trans
      (if_neg (Bool.eq_false_iff.mp hout))

/-! ### SEND's discards (R223, R224) -/

theorem frameSendable_eq_false {s : State}
    (h : s.wf.sampleCount = 0 ∨ s.wf.sampleCount.toNat % 2 ≠ 0 ∨ s.pcb = none) : frameSendable s = false := by
  rcases h with hzero | hodd | hnull
  · simp [frameSendable, hzero]
  · simp [frameSendable, Config.channels, hodd]
  · simp [frameSendable, hnull]

theorem exec_send_of_invalid {s : State} (hsending : s.sender = .sending) (hservice : inService s = true)
    (hinvalid : frameSendable s = false) :
    exec .send s = .next (raiseDrop .invalidFrame { s with sender := .draining }) := by
  have henabled : sendEnabled s = true := by simp [sendEnabled, hsending, hservice]
  calc exec .send s = .next (sendStep s) := congrArg Host.Outcome.next (if_pos henabled)
    _ = .next (raiseDrop .invalidFrame { s with sender := .draining }) := by rw [sendStep_of_invalid s hinvalid]

/-- Settles O39: SEND stops at its validation, or at the refused buffer by `sendFrame_of_no_alloc`. -/
theorem sendDiscards : Obligations.SendDiscards := by
  intro s hsending hlife
  have hservice : inService s = true := (inService_iff s).mpr hlife
  refine ⟨fun hinvalid => exec_send_of_invalid hsending hservice (frameSendable_eq_false hinvalid),
    fun hcount heven hpcb halloc => ?refused⟩
  case refused =>
    obtain ⟨p, hp⟩ := Option.ne_none_iff_exists'.mp hpcb
    have hpos : 0 < s.wf.sampleCount.toNat := Nat.pos_of_ne_zero fun h => hcount (BitVec.eq_of_toNat_eq h)
    have hrefused : answerAt { s with sender := .draining } 0 = false := halloc
    rw [exec_send_of_sendable hsending hservice (frameSendable_of_pcb hpos heven hp) hp,
      sendFrame_of_no_alloc p { s with sender := .draining } hrefused, callBool_eq, hrefused, raiseDrop, record,
      List.append_assoc]
    rfl

/-! ### LRAISE (R231) -/

/-- Settles O44: LRAISE is `raiseDrop`, which writes the latch and the history. -/
theorem lraiseRaises : Obligations.LraiseRaises := fun _ _ => rfl

/-! ### RSTREAM (R232) -/

/-- RSTREAM as far as `UDP_NEW`, as one update. -/
theorem callUdpNew_tearDown (s : State) :
    callUdpNew (tearDown s) =
      { s with
        packetSequence := 0
        streamIndex := 0
        pcb := none
        oracle := s.oracle.handled
        history := s.history ++ releaseEvents s.pcb ++ [.host .udpNew (.handle (handleNow s))] } := by
  rw [callUdpNew_eq, handleNow_tearDown, tearDown_eq]

/-- RSTREAM where `UDP_NEW` answers NONE. -/
theorem resetStream_of_no_pcb {s : State} (hnone : handleNow s = none) :
    resetStream s =
      { s with
        packetSequence := 0
        streamIndex := 0
        pcb := none
        life := .fatal
        fatalCause := .pcbNewFail
        oracle := s.oracle.handled
        history := s.history ++ releaseEvents s.pcb
          ++ [.host .udpNew (.handle none), .fatal .pcbNewFail, .txn rstreamWord .fail] } := by
  have hreset : resetStream s = respond rstreamWord .fail (raiseFatal .pcbNewFail (callUdpNew (tearDown s))) := by
    simp [resetStream, hnone]
  rw [hreset, callUdpNew_tearDown, hnone]
  simp only [respond, record, raiseFatal, List.append_assoc]
  rfl

theorem resetStream_of_pcb {s : State} {p : Handle} (hsome : handleNow s = some p) :
    resetStream s = connectStream p (callUdpNew (tearDown s)) := by
  simp [resetStream, hsome]

/-- RSTREAM where the new PCB `p` connects. -/
theorem resetStream_of_connected {s : State} {p : Handle} (hsome : handleNow s = some p) (hyes : answerAt s 0 = true) :
    resetStream s =
      { s with
        packetSequence := 0
        streamIndex := 0
        pcb := some p
        oracle := (s.oracle.answered 1).handled
        history := s.history ++ releaseEvents s.pcb
          ++ [.host .udpNew (.handle (some p)), .host (.udpConnect p s.cfg.destIp s.cfg.destPort) (.bool true),
            .txn rstreamWord .ack] } := by
  have hanswer : answerAt (callUdpNew (tearDown s)) 0 = true := by simpa using hyes
  rw [resetStream_of_pcb hsome, connectStream, answerNow_eq, if_pos hanswer, callBool_eq, hanswer, callUdpNew_tearDown,
    hsome]
  simp only [respond, record, List.append_assoc]
  rfl

/-- RSTREAM where connecting the new PCB `p` is refused. -/
theorem resetStream_of_refused {s : State} {p : Handle} (hsome : handleNow s = some p) (hno : answerAt s 0 = false) :
    resetStream s =
      { s with
        packetSequence := 0
        streamIndex := 0
        pcb := none
        life := .fatal
        fatalCause := .pcbConnectFail
        oracle := (s.oracle.answered 1).handled
        history := s.history ++ releaseEvents s.pcb
          ++ [.host .udpNew (.handle (some p)), .host (.udpConnect p s.cfg.destIp s.cfg.destPort) (.bool false),
            .host (.pcbRelease p) .none, .fatal .pcbConnectFail, .txn rstreamWord .fail] } := by
  have hanswer : answerAt (callUdpNew (tearDown s)) 0 = false := by simpa using hno
  rw [resetStream_of_pcb hsome, connectStream, answerNow_eq, if_neg (Bool.eq_false_iff.mp hanswer), callBool_eq, hanswer,
    callUdpNew_tearDown, hsome]
  simp only [respond, record, raiseFatal, callNone, List.append_assoc]
  rfl

theorem exec_rstream_of_idle {s : State} (hlife : s.life = .ready ∨ s.life = .running) (hidle : s.sender = .idle) :
    exec .rstream s = .next (resetStream s) :=
  congrArg Host.Outcome.next <|
    (foreground_of_not_holding rstreamWord _ (holding_of_idle hidle)).trans (if_pos ((inService_iff s).mpr hlife))

/-- Settles O45, by `resetStream_of_connected`. -/
theorem rstreamConnects : Obligations.RstreamConnects := by
  intro s p hlife hidle hsome hyes
  rw [exec_rstream_of_idle hlife hidle, resetStream_of_connected hsome hyes]
  rfl

/-- Settles O46: NONE from `UDP_NEW` ends in `resetStream_of_no_pcb`, and a refused connection in `resetStream_of_refused`. -/
theorem rstreamFails : Obligations.RstreamFails := by
  intro s hlife hidle
  rw [exec_rstream_of_idle hlife hidle]
  refine ⟨fun hnone => ?_, fun p hsome hno => ?_⟩
  · rw [resetStream_of_no_pcb hnone]
    rfl
  · rw [resetStream_of_refused hsome hno]
    rfl

end Sys2Proof.Machine
end

section
/-! Sender (44_sender.md): the sequence numbers of the datagrams over the whole history (R227, R232, R233). Only a datagram and a
`UDP_NEW` move the number; every other event leaves the law as it is. -/

namespace Sys2Proof.Machine

/-! ### The law of a number and a history, and one event more -/

/-- `n` is the number the history `h` leads to, and every datagram of `h` begins with the number that the events before it lead
to (R233). -/
structure Numbered (c : Config) (n : BitVec 32) (h : List Event) : Prop where
  now : n = sequenceAfter c h
  formed : ∀ before after bytes ok,
    h = before ++ Event.datagram bytes ok :: after → bytes.take 4 = littleEndian 4 (sequenceAfter c before)

theorem sequenceLaw_iff_numbered (s : State) : SequenceLaw s ↔ Numbered s.cfg s.packetSequence s.history :=
  ⟨fun h => ⟨h.now, h.formed⟩, fun h => ⟨h.now, h.formed⟩⟩

/-- A datagram and a stream reset's `UDP_NEW` move the sequence number (R227, R232); no other event does. -/
def isUnnumbered : Event → Bool
  | .datagram _ _ | .host .udpNew _ => false
  | .txn _ _ | .published _ _ _ | .drop _ | .host _ _ | .fatal _ => true

theorem sequenceStep_of_unnumbered (c : Config) (n : BitVec 32) {e : Event} (he : isUnnumbered e = true) :
    sequenceStep c n e = n := by
  cases e with
  | datagram => cases he
  | host call answer =>
    cases call with
    | udpNew => cases he
    | dmaStart | timerStart | udpConnect | pcbRelease | alloc | send | free => rfl
  | txn | published | drop | fatal => rfl

theorem Numbered.nil (c : Config) : Numbered c 0 [] := ⟨rfl, fun before _ _ _ h => by simp at h⟩

section
variable {c : Config} {n : BitVec 32} {h : List Event} (hn : Numbered c n h)
include hn

/-- One event more moves the number by `sequenceStep`; if it is a datagram, it has to begin with the number before it. -/
theorem Numbered.snoc {e : Event} (he : ∀ bytes ok, e = .datagram bytes ok → bytes.take 4 = littleEndian 4 n) :
    Numbered c (sequenceStep c n e) (h ++ [e]) where
  now := by rw [sequenceAfter_snoc, hn.now]
  formed := by
    intro before after bytes ok hsplit
    rcases snoc_split hsplit with ⟨_, rfl, hlast⟩ | ⟨after', _, hbefore⟩
    · rw [← hn.now]
      exact he bytes ok hlast.symm
    · exact hn.formed before after' bytes ok hbefore

theorem Numbered.append_unnumbered {new : List Event} (hnew : new.all isUnnumbered = true) : Numbered c n (h ++ new) := by
  induction new generalizing h with
  | nil => rwa [List.append_nil]
  | cons e rest ih =>
    rw [List.all_cons, Bool.and_eq_true] at hnew
    obtain ⟨he, hrest⟩ := hnew
    have hsnoc : Numbered c (sequenceStep c n e) (h ++ [e]) := hn.snoc fun bytes ok hdatagram => by
      rw [hdatagram] at he
      cases he
    rw [sequenceStep_of_unnumbered c n he] at hsnoc
    simpa using ih hsnoc hrest

/-- A stream reset starts again from zero, whatever follows its `UDP_NEW` unnumbered (R232, R233). -/
theorem Numbered.reset (old : Option Handle) (answer : HostAnswer) {new : List Event}
    (hnew : new.all isUnnumbered = true) : Numbered c 0 (h ++ releaseEvents old ++ .host .udpNew answer :: new) := by
  have hreleased : Numbered c n (h ++ releaseEvents old) := hn.append_unnumbered (by cases old <;> rfl)
  have hzero : Numbered c 0 (h ++ releaseEvents old ++ [.host .udpNew answer]) :=
    hreleased.snoc (e := .host .udpNew answer) fun _ _ heq => by cases heq
  simpa using hzero.append_unnumbered hnew

/-- A datagram moves the number by `sequenceNext` (R227). -/
theorem Numbered.datagram {bytes : List Byte} (ok : Bool) (hbytes : bytes.take 4 = littleEndian 4 n) :
    Numbered c (sequenceNext c ok n) (h ++ [.datagram bytes ok]) :=
  hn.snoc (e := .datagram bytes ok) fun _ _ heq => by
    cases heq
    exact hbytes

end

/-! ### Operations that leave the number alone -/

/-- From `s` to `t` only unnumbered events were recorded, and the number is what it was. -/
structure KeepsNumber (s t : State) : Prop where
  adds : Adds isUnnumbered s t
  cfg : t.cfg = s.cfg
  sequence : t.packetSequence = s.packetSequence

theorem SequenceLaw.keepsNumber {s t : State} (hs : SequenceLaw s) (h : KeepsNumber s t) : SequenceLaw t := by
  obtain ⟨⟨new, hhistory, hnew⟩, hcfg, hsequence⟩ := h
  rw [sequenceLaw_iff_numbered] at hs ⊢
  rw [hcfg, hsequence, hhistory]
  exact hs.append_unnumbered hnew

theorem KeepsNumber.refl (s : State) : KeepsNumber s s := ⟨.refl _ s, rfl, rfl⟩

theorem KeepsNumber.respond {s t : State} (h : KeepsNumber s t) (w : TxnWord) (r : Response) :
    KeepsNumber s (respond w r t) :=
  ⟨.recorded rfl h.adds, h.cfg, h.sequence⟩

theorem reject_keepsNumber (w : TxnWord) (r : RejectReason) (s : State) : KeepsNumber s (reject w r s) :=
  ⟨⟨[.txn w (.reject r)], rfl, rfl⟩, rfl, rfl⟩

theorem startCalls_keepsNumber (s : State) : KeepsNumber s (startCalls s) where
  adds := (startCalls_adds s).mono fun e he => by
    cases e with
    | host call answer =>
      cases call with
      | dmaStart | timerStart => rfl
      | udpNew | udpConnect | pcbRelease | alloc | send | free => cases he
    | txn | fatal => rfl
    | published | drop | datagram => cases he
  cfg := (startCalls_onlyForegroundWrites s).cfg
  sequence := by
    unfold startCalls startFails running
    dsimp only
    repeat' split
    all_goals simp

/-- The producer writes no sequence number and records only drops and publications (R40). -/
theorem OnlyProducerWrites.keepsNumber {s t : State} (h : OnlyProducerWrites s t) (hadds : Adds isProducerEvent s t) :
    KeepsNumber s t where
  adds := hadds.mono fun e he => by
    cases e with
    | drop | published => rfl
    | txn | host | datagram | fatal => cases he
  cfg := h.cfg
  sequence := h.packetSequence

theorem mark_keepsNumber (a : Adc) (h : Half) (s : State) : KeepsNumber s (mark a h s) :=
  (mark_onlyProducerWrites a h s).keepsNumber (mark_adds a h s)

/-- A sample-clock period writes the buffers and the position besides what its events do. -/
theorem samplePeriod_keepsNumber (v0 v1 : Sample) (s : State) : KeepsNumber s (samplePeriod v0 v1 s) :=
  have hevents : KeepsNumber (writePair v0 v1 s) (clockEvents (s.dmaPos + 1) (writePair v0 v1 s)) :=
    (clockEvents_onlyProducerWrites _ _).keepsNumber (clockEvents_adds _ _)
  ⟨hevents.adds, hevents.cfg, hevents.sequence⟩

theorem writeSample_keepsNumber (a : Adc) (i : Nat) (v : Sample) (s : State) : KeepsNumber s (writeSample a i v s) :=
  ⟨⟨[], by simp, rfl⟩, by simp, by simp⟩

theorem popStep_keepsNumber (s : State) : KeepsNumber s (popStep s) := by
  unfold popStep
  split <;> exact ⟨⟨[], by simp, rfl⟩, rfl, rfl⟩

/-! ### RSTREAM and SEND, which move it (R227, R232) -/

theorem resetStream_sequenceLaw {s : State} (hs : SequenceLaw s) : SequenceLaw (resetStream s) := by
  rw [sequenceLaw_iff_numbered] at hs ⊢
  cases hhandle : handleNow s with
  | none =>
    rw [resetStream_of_no_pcb hhandle]
    exact hs.reset s.pcb _ rfl
  | some p =>
    cases hconnected : answerAt s 0
    · rw [resetStream_of_refused hhandle hconnected]
      exact hs.reset s.pcb _ rfl
    · rw [resetStream_of_connected hhandle hconnected]
      exact hs.reset s.pcb _ rfl

/-- The header's first field is the sequence number (R100, R225). -/
theorem formDatagram_take_four (s : State) : (formDatagram s).take 4 = littleEndian 4 s.packetSequence := by
  simp [formDatagram, header]

theorem sendFrame_sequenceLaw (p : Handle) {s : State} (hs : SequenceLaw s) : SequenceLaw (sendFrame p s) := by
  cases halloc : answerAt s 0
  case false =>
    rw [sendFrame_of_no_alloc p s halloc]
    exact hs.keepsNumber ⟨.recorded rfl (.recorded rfl (.refl _ s)), rfl, rfl⟩
  case true =>
    rw [sequenceLaw_iff_numbered] at hs ⊢
    rw [sendFrame_of_alloc p s halloc]
    have hcalls := hs.append_unnumbered
      (new := [.host (.alloc (datagramLength s)) (.bool true), .host (.send p (formDatagram s)) (.bool (answerAt s 1)),
        .host (.free (datagramLength s)) .none]) rfl
    have hsent := hcalls.datagram (answerAt s 1) (formDatagram_take_four s)
    rw [List.append_assoc] at hsent
    exact hsent.append_unnumbered (by cases answerAt s 1 <;> rfl)

theorem sendStep_sequenceLaw {s : State} (hs : SequenceLaw s) : SequenceLaw (sendStep s) := by
  have hdraining : SequenceLaw { s with sender := .draining } := ⟨hs.now, hs.formed⟩
  cases hvalid : frameSendable s
  case false =>
    rw [sendStep_of_invalid s hvalid]
    exact hdraining.keepsNumber ⟨.recorded rfl (.refl _ s), rfl, rfl⟩
  case true =>
    obtain ⟨p, hp⟩ := frameSendable_pcb hvalid
    rw [sendStep_of_sendable s hvalid hp]
    exact sendFrame_sequenceLaw p hdraining

/-! ### Every operation, and every step -/

/-- A foreground transaction waits, is performed where its condition holds, or is rejected. -/
theorem foreground_sequenceLaw (w : TxnWord) (r : RejectReason) {c : State → Prop} [DecidablePred c]
    {f : State → State} {s : State} (hs : SequenceLaw s) (hf : SequenceLaw (f s)) :
    SequenceLaw (foreground w (fun u => if c u then f u else reject w r u) s) := by
  rcases foreground_cases w (fun u => if c u then f u else reject w r u) s with ⟨_, h⟩ | ⟨_, h⟩ <;> rw [h]
  · exact ⟨hs.now, hs.formed⟩
  · split
    · exact hf
    · exact hs.keepsNumber (reject_keepsNumber w r s)

/-- Every operation keeps the law, sub-operations taken alone included. -/
theorem exec_sequenceLaw {i : Instr} {s t : State} (hs : SequenceLaw s) (hexec : exec i s = .next t) : SequenceLaw t := by
  have keeps : ∀ {u}, KeepsNumber s u → SequenceLaw u := fun h => hs.keepsNumber h
  cases i with
  | init => cases hexec; exact foreground_sequenceLaw _ _ hs (keeps ⟨⟨[.txn initWord .ack], rfl, rfl⟩, rfl, rfl⟩)
  | start => cases hexec; exact foreground_sequenceLaw _ _ hs (keeps (startCalls_keepsNumber s))
  | tick => cases hexec; exact foreground_sequenceLaw _ _ hs (keeps ⟨⟨[.txn tickWord .ack], rfl, rfl⟩, rfl, rfl⟩)
  | rstream => cases hexec; exact foreground_sequenceLaw _ _ hs (resetStream_sequenceLaw hs)
  | evt a h =>
    cases hexec
    split
    · exact keeps ((mark_keepsNumber a h s).respond _ _)
    · exact keeps ((KeepsNumber.refl s).respond _ _)
  | dmawr a idx val =>
    cases hexec
    split
    · exact keeps ((writeSample_keepsNumber a _ val s).respond _ _)
    · exact keeps (reject_keepsNumber _ _ s)
  | rdstat reg =>
    cases hexec
    split
    · exact keeps ((KeepsNumber.refl s).respond _ _)
    · exact keeps (reject_keepsNumber _ _ s)
  | smpl v0 v1 =>
    simp only [exec, execSmpl] at hexec
    split at hexec
    · split at hexec
      · cases hexec
        exact keeps (samplePeriod_keepsNumber v0 v1 s)
      · cases hexec
    · cases hexec
      exact hs
  | mark a h => cases hexec; exact keeps (mark_keepsNumber a h s)
  | pack h => cases hexec; exact keeps ((pack_onlyProducerWrites h s).keepsNumber (pack_adds h s))
  | push f => cases hexec; exact keeps ((publish_onlyProducerWrites f s).keepsNumber (publish_adds f s))
  | pop =>
    cases hexec
    split
    · exact keeps (popStep_keepsNumber s)
    · exact hs
  | send =>
    cases hexec
    split
    · exact sendStep_sequenceLaw hs
    · exact hs
  | lraise k => cases hexec; exact keeps ⟨.recorded rfl (.refl _ s), rfl, rfl⟩
  | fatal cause => cases hexec; exact keeps ⟨.recorded rfl (.refl _ s), rfl, rfl⟩

/-- Settles O60, and needs no lawful turns: bookkeeping and a rejection move no number, a power-on reset empties the history, and
every operation keeps the law. -/
theorem stepKeepsSequenceLaw : Obligations.StepKeepsSequenceLaw := by
  intro s t _ hs hstep
  refine step_keeps (P := SequenceLaw) ?bookkeeping ?rejected ?reset ?operation hs hstep
  case bookkeeping => exact fun _ _ _ hu => ⟨hu.now, hu.formed⟩
  case rejected => exact fun w r u hu => hu.keepsNumber (reject_keepsNumber w r u)
  case reset => exact fun u _ => (sequenceLaw_iff_numbered (powerOnReset u)).mpr (.nil _)
  case operation => exact fun _ _ _ hu hexec => exec_sequenceLaw hu hexec

end Sys2Proof.Machine
end

section
/-! Lifecycle and status (45_lifecycle.md): the foreground hold (R275), the admission of foreground transactions (R270), INIT (R271)
and START (R272). -/

namespace Sys2Proof.Machine

/-! ### A word presented during a tick waits (R275) -/

/-- A foreground transaction waits as the word that encodes it. -/
theorem exec_of_holding {i : Instr} {w : TxnWord} {s : State} (hencode : encode i = .word w)
    (hw : isForegroundWord w = true) (hholding : holding s = true) : exec i s = .next (hold w s) := by
  have waits : ∀ w f, Host.Outcome.next (foreground w f s) = (.next (hold w s) : Host.Outcome State Fault Refusal) :=
    fun w f => congrArg _ (foreground_of_holding w f hholding)
  cases i <;> cases hencode
  case init | start | tick | rstream => exact waits _ _
  case evt a h => cases a <;> cases h <;> cases hw
  case dmawr a idx val =>
    exact absurd hw (Bool.eq_false_iff.mp (isForegroundWord_eq_false (by rw [opField_dmawrWord]; decide)))
  case rdstat reg =>
    exact absurd hw (Bool.eq_false_iff.mp (isForegroundWord_eq_false (by rw [opField_rdstatWord]; decide)))

/-- Legal or not, a foreground word presented during a tick waits: a legal one is the encoding of what it decodes to (R105). -/
theorem accept_of_holding {w : TxnWord} {s : State} (hw : isForegroundWord w = true) (hholding : holding s = true) :
    accept (.word w) s = .next (hold w s) := by
  cases hdecode : decode s.cfg (.word w) with
  | instr i =>
    obtain ⟨hencode, _⟩ := wordHasOneMeaning s.cfg w i hdecode
    exact (accept_of_instr hdecode).trans (exec_of_holding hencode hw hholding)
  | illegal r =>
    have hwaits : rejectIllegal w r s = hold w s := if_pos (by rw [hw, hholding]; rfl)
    rw [accept_word_of_illegal hdecode, hwaits]
  | noLabel code => exact absurd hdecode (decodeWord_ne_noLabel s.cfg w code)

/-- Settles O8, by `accept_of_holding`. -/
theorem foregroundWordHeld : Obligations.ForegroundWordHeld := by
  intro s w rest hagenda ⟨hlow, hhigh⟩ hlife hbusy
  have hw : isForegroundWord w = true := by
    rw [isForegroundWord, Bool.and_eq_true, decide_eq_true_eq, decide_eq_true_eq]
    exact ⟨hlow, hhigh⟩
  have hholding : holding { s with agenda := rest } = true := holding_of_not_idle ((inService_iff s).mpr hlife) hbusy
  exact (step_of_cons hagenda).trans (accept_of_holding hw hholding)

/-! ### A waiting word is presented again (R275) -/

theorem resumeForeground_of_nil {s : State} (hnone : s.held = []) : resumeForeground s = .next s := by
  simp [resumeForeground, hnone]

theorem resumeForeground_of_holding {s : State} (hholding : holding s = true) : resumeForeground s = .next s := by
  cases hheld : s.held <;> simp [resumeForeground, hheld, hholding]

theorem resumeForeground_of_cons {s : State} {w : TxnWord} {ws : List TxnWord} (hheld : s.held = w :: ws)
    (hfree : holding s = false) : resumeForeground s = accept (.word w) { s with held := ws } := by
  simp [resumeForeground, hheld, hfree]

/-- Settles O9: the turn is used up, and then the hold and the waiting words decide what `resumeForeground` does. -/
theorem heldWordResumes : Obligations.HeldWordResumes := by
  refine ⟨fun s rest hagenda hwaits => (step_of_cons hagenda).trans ?unchanged,
    fun s w ws rest hagenda hheld hfree => ?presented⟩
  case unchanged =>
    exact hwaits.elim (resumeForeground_of_holding (s := { s with agenda := rest }))
      (resumeForeground_of_nil (s := { s with agenda := rest }))
  case presented =>
    calc step s = resumeForeground { s with agenda := rest } := step_of_cons hagenda
      _ = accept (.word w) { s with agenda := rest, held := ws } :=
        resumeForeground_of_cons (s := { s with agenda := rest }) hheld hfree
      _ = step { s with agenda := .issue (.word w) :: rest, held := ws } :=
        (step_of_cons (s := { s with agenda := .issue (.word w) :: rest, held := ws }) rfl).symm

/-! ### The admission of foreground transactions (R270) -/

section
variable {s : State} {w : TxnWord} {r : RejectReason} {c : State → Prop} [DecidablePred c] {f : State → State}

theorem foreground_of_admitted (hfree : holding s = false) (hc : c s) :
    foreground w (fun u => if c u then f u else reject w r u) s = f s :=
  (foreground_of_not_holding w _ hfree).trans (if_pos hc)

theorem foreground_of_not_admitted (hfree : holding s = false) (hc : ¬ c s) :
    foreground w (fun u => if c u then f u else reject w r u) s = reject w r s :=
  (foreground_of_not_holding w _ hfree).trans (if_neg hc)

end

/-- Settles O15: each of the four is admitted on its condition on `life`, which does not hold. -/
theorem admissionRejects : Obligations.AdmissionRejects := by
  intro s hfree
  have hout : s.life = .off ∨ s.life = .fatal → ¬ inService s = true := fun hlife =>
    Bool.eq_false_iff.mp (inService_eq_false hlife)
  exact ⟨fun hlife => congrArg Host.Outcome.next (foreground_of_not_admitted hfree hlife),
    fun hlife => congrArg Host.Outcome.next (foreground_of_not_admitted hfree hlife),
    fun hlife => congrArg Host.Outcome.next (foreground_of_not_admitted hfree (hout hlife)),
    fun hlife => congrArg Host.Outcome.next (foreground_of_not_admitted hfree (hout hlife))⟩

/-! ### INIT (R271) -/

/-- Settles O12: in OFF nothing is held, so INIT is performed; elsewhere it is rejected by O15. -/
theorem initPerforms : Obligations.InitPerforms := by
  refine fun s => ⟨fun hoff => congrArg Host.Outcome.next ?_, fun hlife hfree => (admissionRejects s hfree).1 hlife⟩
  have hfree : holding s = false := holding_of_not_inService (inService_eq_false (.inl hoff))
  exact foreground_of_admitted hfree hoff

/-! ### START (R272) -/

theorem exec_start_of_ready {s : State} (hlife : s.life = .ready) (hidle : s.sender = .idle) :
    exec .start s = .next (startCalls s) :=
  congrArg Host.Outcome.next (foreground_of_admitted (holding_of_idle hidle) hlife)

/-- A start call answered false, as one update: FATAL with the call's cause, and FAIL (R302, R305). -/
theorem startFails_callBool {t : State} (cause : FatalCause) (call : HostCall) (hno : answerAt t 0 = false) :
    startFails cause (callBool call t) =
      { t with
        life := .fatal
        fatalCause := cause
        oracle := t.oracle.answered 1
        history := t.history ++ [.host call (.bool false), .fatal cause, .txn startWord .fail] } := by
  rw [callBool_eq, hno]
  simp [startFails, raiseFatal, respond, record]

theorem running_eq (s : State) :
    running s =
      { s with
        life := .running
        dmaArmed := if s.cfg.dmaEnv = .lockstep then true else s.dmaArmed
        dmaPos := if s.cfg.dmaEnv = .lockstep then 0 else s.dmaPos } := by
  cases henv : s.cfg.dmaEnv <;> simp [running, henv]

@[simp] theorem Oracle.answered_answered (o : Oracle) (m n : Nat) : (o.answered m).answered n = o.answered (m + n) := by
  simp [Oracle.answered, Nat.add_assoc]

/-! START by the answers to its three calls: the first false one decides, and the later calls are not made (R272). -/

theorem startCalls_of_adc0_refused {s : State} (h0 : answerAt s 0 = false) :
    startCalls s =
      { s with
        life := .fatal
        fatalCause := .startAdc0Dma
        oracle := s.oracle.answered 1
        history := s.history ++ [.host (.dmaStart .adc0) (.bool false), .fatal .startAdc0Dma, .txn startWord .fail] } := by
  have hfails : startCalls s = startFails .startAdc0Dma (callBool (.dmaStart .adc0) s) := by
    simp [startCalls, answerNow_eq, h0]
  rw [hfails, startFails_callBool _ _ h0]

theorem startCalls_of_adc1_refused {s : State} (h0 : answerAt s 0 = true) (h1 : answerAt s 1 = false) :
    startCalls s =
      { s with
        life := .fatal
        fatalCause := .startAdc1Dma
        oracle := s.oracle.answered 2
        history := s.history ++
          [.host (.dmaStart .adc0) (.bool true), .host (.dmaStart .adc1) (.bool false), .fatal .startAdc1Dma,
            .txn startWord .fail] } := by
  have hfails : startCalls s = startFails .startAdc1Dma (callBool (.dmaStart .adc1) (callBool (.dmaStart .adc0) s)) := by
    simp [startCalls, answerNow_eq, h0, h1]
  rw [hfails, startFails_callBool _ _ ((answerAt_callBool _ s 0).trans h1), callBool_eq, h0]
  simp

/-- Both ADC calls answered true, as one update. -/
theorem callBool_adcs_of_true {s : State} (h0 : answerAt s 0 = true) (h1 : answerAt s 1 = true) :
    callBool (.dmaStart .adc1) (callBool (.dmaStart .adc0) s) =
      { s with
        oracle := s.oracle.answered 2
        history := s.history ++ [.host (.dmaStart .adc0) (.bool true), .host (.dmaStart .adc1) (.bool true)] } := by
  rw [callBool_eq (.dmaStart .adc1), answerAt_callBool, h1, callBool_eq, h0]
  simp

theorem startCalls_of_timer_refused {s : State} (h0 : answerAt s 0 = true) (h1 : answerAt s 1 = true)
    (h2 : answerAt s 2 = false) :
    startCalls s =
      { s with
        life := .fatal
        fatalCause := .startTimer
        oracle := s.oracle.answered 3
        history := s.history ++
          [.host (.dmaStart .adc0) (.bool true), .host (.dmaStart .adc1) (.bool true), .host .timerStart (.bool false),
            .fatal .startTimer, .txn startWord .fail] } := by
  have hfails : startCalls s = startFails .startTimer
      (callBool .timerStart (callBool (.dmaStart .adc1) (callBool (.dmaStart .adc0) s))) := by
    simp [startCalls, answerNow_eq, h0, h1, h2]
  have hno : answerAt (callBool (.dmaStart .adc1) (callBool (.dmaStart .adc0) s)) 0 = false := by simpa using h2
  rw [hfails, startFails_callBool _ _ hno, callBool_adcs_of_true h0 h1]
  simp

theorem startCalls_of_accepted {s : State} (h0 : answerAt s 0 = true) (h1 : answerAt s 1 = true)
    (h2 : answerAt s 2 = true) :
    startCalls s =
      { s with
        life := .running
        dmaArmed := if s.cfg.dmaEnv = .lockstep then true else s.dmaArmed
        dmaPos := if s.cfg.dmaEnv = .lockstep then 0 else s.dmaPos
        oracle := s.oracle.answered 3
        history := s.history ++
          [.host (.dmaStart .adc0) (.bool true), .host (.dmaStart .adc1) (.bool true), .host .timerStart (.bool true),
            .txn startWord .ack] } := by
  have hruns : startCalls s = respond startWord .ack
      (running (callBool .timerStart (callBool (.dmaStart .adc1) (callBool (.dmaStart .adc0) s)))) := by
    simp [startCalls, answerNow_eq, h0, h1, h2]
  have hyes : answerAt (callBool (.dmaStart .adc1) (callBool (.dmaStart .adc0) s)) 0 = true := by simpa using h2
  rw [hruns, running_eq, callBool_eq .timerStart, hyes, callBool_adcs_of_true h0 h1]
  simp [respond, record]

/-- Settles O13, by `startCalls_of_accepted`. -/
theorem startRuns : Obligations.StartRuns := by
  intro s hlife hidle h0 h1 h2
  rw [exec_start_of_ready hlife hidle, startCalls_of_accepted h0 h1 h2]
  rfl

/-- Settles O14: which call is refused first decides. (`startFails` itself is a definition of the model.) -/
theorem Lifecycle.startFails : Obligations.StartFails := by
  intro s hlife hidle
  rw [exec_start_of_ready hlife hidle]
  refine ⟨fun h0 => ?adc0, fun h0 h1 => ?adc1, fun h0 h1 h2 => ?timer⟩
  case adc0 =>
    rw [startCalls_of_adc0_refused h0]
    rfl
  case adc1 =>
    rw [startCalls_of_adc1_refused h0 h1]
    rfl
  case timer =>
    rw [startCalls_of_timer_refused h0 h1 h2]
    rfl

end Sys2Proof.Machine
end

section
/-! Exceptions (60_exceptions.md): entry into FATAL (R305), the halted block (R306, R307), and the two ADCs' simultaneous events
(R312). -/

namespace Sys2Proof.Machine

/-! ### FATAL entry (R305) -/

/-- Settles O19: FATAL as an operation is `raiseFatal`, which is these writes. -/
theorem fatalEntry : Obligations.FatalEntry := fun _ _ => rfl

/-! ### The halted block (R306, R307) -/

/-- `t` is `s` with at most the buffers, `err_cmd`, the history and the waiting words written. -/
def OnlyHaltedWrites (s t : State) : Prop :=
  t = { s with buf0 := t.buf0, buf1 := t.buf1, errCmd := t.errCmd, history := t.history, held := t.held }

theorem reject_onlyHaltedWrites (w : TxnWord) (r : RejectReason) (s : State) : OnlyHaltedWrites s (reject w r s) := rfl

theorem execDmawr_onlyHaltedWrites {a : Adc} {idx : BitVec 11} {val : Sample} {s t : State}
    (h : exec (.dmawr a idx val) s = .next t) : OnlyHaltedWrites s t := by
  cases h
  split
  · cases a <;> rfl
  · exact reject_onlyHaltedWrites _ _ s

theorem execRdstat_onlyHaltedWrites {reg : BitVec 8} {s t : State} (h : exec (.rdstat reg) s = .next t) :
    OnlyHaltedWrites s t := by
  cases h
  split <;> rfl

/-- In FATAL the four commands are rejected, an EVT is ignored, and SMPL, POP and SEND are not enabled; DMAWR and RDSTAT are
performed as in every state (R306). -/
theorem exec_of_fatal_onlyHaltedWrites {i : Instr} {s t : State} (hfatal : s.life = .fatal)
    (hlawful : lawfulInstr s.cfg i = true) (hexec : exec i s = .next t) : OnlyHaltedWrites s t := by
  have answers : ∀ {u}, exec i s = .next u → OnlyHaltedWrites s u → OnlyHaltedWrites s t := fun hu hframe => by
    cases hexec.symm.trans hu
    exact hframe
  have hfree : holding s = false := holding_of_not_inService (inService_eq_false (.inr hfatal))
  obtain ⟨hinit, hstart, htick, hrstream⟩ := admissionRejects s hfree
  obtain ⟨hsmpl, hpop, hsend⟩ := stepsNotEnabled
  cases i with
  | init => exact answers (hinit (by simp [hfatal])) rfl
  | start => exact answers (hstart (by simp [hfatal])) rfl
  | tick => exact answers (htick (.inr hfatal)) rfl
  | rstream => exact answers (hrstream (.inr hfatal)) rfl
  | evt a h => exact answers ((evtMarks s a h).2 (.inr hfatal)) rfl
  | dmawr => exact execDmawr_onlyHaltedWrites hexec
  | rdstat => exact execRdstat_onlyHaltedWrites hexec
  | smpl v0 v1 => exact answers (hsmpl s v0 v1 (.inr (.inr (by simp [hfatal])))) rfl
  | pop => exact answers (hpop s (.inr (.inr hfatal))) rfl
  | send => exact answers (hsend s (.inr (.inr hfatal))) rfl
  | mark | pack | push | lraise | fatal => cases hlawful

/-- Settles O20: the turn is used up, and then a rejection, a wait and, in FATAL, every operation write only what
`OnlyHaltedWrites` names. -/
theorem fatalIsHalted : Obligations.FatalIsHalted := by
  intro s t hfatal hl hturn hstep
  refine step_cases_lawful
    (R := fun s t => s.life = .fatal → s.agenda.head? ≠ some .powerOn →
      OnlyHaltedWrites { s with agenda := s.agenda.tail } t)
    hl hstep ?idle ?used ?rejected ?waits ?operation ?reset hfatal hturn
  case idle =>
    intro hnil _ _
    have hsame : s.agenda.tail = s.agenda := by rw [hnil]; rfl
    rw [hsame]
    rfl
  case used => exact fun _ _ _ _ => rfl
  case rejected => exact fun _ _ _ _ _ _ => rfl
  case waits => exact fun _ _ _ _ _ _ _ => rfl
  case operation =>
    exact fun ws _ _ hlawful hexec hlife _ =>
      exec_of_fatal_onlyHaltedWrites (s := { s with agenda := s.agenda.tail, held := ws }) hlife hlawful hexec
  case reset => exact fun hreset _ hne => absurd hreset hne

/-! ### The two ADCs' events for one half, in either order (R312) -/

/-- Whichever ADC's bit is set first, clearing the half takes both away again. -/
theorem Pending.clearHalf_set_both {p : Pending} {a b : Adc} {h : Half} (hne : b ≠ a) (ha : p.get a h = false)
    (hb : p.get b h = false) : ((p.set a h).set b h).clearHalf h = p := by
  cases a <;> cases b
  case adc0.adc0 | adc1.adc1 => exact absurd rfl hne
  case adc0.adc1 => exact Pending.clearHalf_set_set ha hb
  case adc1.adc0 =>
    have hcomm : (p.set .adc1 h).set .adc0 h = (p.set .adc0 h).set .adc1 h := by cases h <;> rfl
    rw [hcomm, Pending.clearHalf_set_set hb ha]

section
variable {s : State} {a b : Adc} {h : Half}

/-- The first event of a pair only sets its bit (R136). -/
theorem mark_of_clear (hne : b ≠ a) (ha : s.pending.get a h = false) (hb : s.pending.get b h = false) :
    mark a h s = setPending a h s := by
  rw [mark_of_unpaired hne hb, resignal_of_clear ha]

/-- Both events of a pair, in either order, come to packing the half (R136, R312). -/
theorem mark_mark_of_clear (hne : b ≠ a) (ha : s.pending.get a h = false) (hb : s.pending.get b h = false) :
    mark b h (mark a h s) = pack h s := by
  have hown : (setPending a h s).pending.get b h = false := by
    rw [setPending_pending, Pending.get_set_other _ (by simp [hne]), hb]
  rw [mark_of_clear hne ha hb, mark_of_pair hne.symm (Pending.get_set_self _ _ _) hown, setPending_pending,
    Pending.clearHalf_set_both hne ha hb]
  rfl

end

/-- Settles O26: either order ends in packing the half, and between the events the bit of the ADC that came first is set. -/
theorem simultaneousEventsCommute : Obligations.SimultaneousEventsCommute := by
  intro s h h0 h1
  refine ⟨mark .adc0 h s, mark .adc1 h s, pack h s, rfl, rfl, fun heq => ?between,
    congrArg Host.Outcome.next (mark_mark_of_clear (by decide) h0 h1),
    congrArg Host.Outcome.next (mark_mark_of_clear (by decide) h1 h0)⟩
  case between =>
    rw [mark_of_clear (b := .adc1) (by decide) h0 h1, mark_of_clear (b := .adc0) (by decide) h1 h0] at heq
    have hset : (s.pending.set .adc1 h).get .adc0 h = true := by
      calc (s.pending.set .adc1 h).get .adc0 h
          = (s.pending.set .adc0 h).get .adc0 h := congrArg (fun u : State => u.pending.get .adc0 h) heq.symm
        _ = true := Pending.get_set_self _ _ _
    rw [Pending.get_set_other _ (by simp), h0] at hset
    exact Bool.false_ne_true hset

end Sys2Proof.Machine
end
